-- ==== Sys2Proof/Word.lean ====
section
/-! DEFINITION. The words of the engine: bytes, event words (16 bits), command words (32 bits).
00_scope.md R8, 30_encoding.md R80. -/

namespace Sys2Proof

/-- A byte of a buffer, of the line or of the return port (R8, R61). -/
abbrev Byte := BitVec 8

/-- One transfer on the event port (R80, R81). -/
abbrev EventWord := BitVec 16

/-- One transfer on the command port (R80, R86). -/
abbrev CmdWord := BitVec 32

end Sys2Proof
end

