-- ==== Sys2Proof/Syntax.lean ====
section
/-! DEFINITION. The fifteen events of 30_encoding.md R83, one constructor per row of
spec/opcode_table.json. Operands are those of R82. -/

namespace Sys2Proof

/-- An event of the engine: what arrives, whole, on the event port (R11, R83, R84). -/
inductive Instr where
  /-- `INIT slot, tc, uart, inep, irqep` (R110). -/
  | init (slot tc uart : BitVec 2) (inep irqep : BitVec 3)
  /-- `IOCHG.VCC active` (R112). -/
  | iochgVcc (active : Bool)
  /-- `IOCHG.RST active` (R113). -/
  | iochgRst (active : Bool)
  /-- `IOCHG.CLK active` (R114). -/
  | iochgClk (active : Bool)
  /-- `RXB byte`, and `RXB.PE byte` when `perr` (R132). -/
  | rxb (perr : Bool) (byte : Byte)
  /-- `TXRDY`, and `TXRDY.NACK` when `nack` (R133). -/
  | txrdy (nack : Bool)
  /-- `WTHALF` (R230). -/
  | wthalf
  /-- `WTEXP` (R231). -/
  | wtexp
  /-- `SETATR b0 ... bn-1`; `len` is the number of bytes (R162). -/
  | setatr (bytes : List Byte)
  /-- `TXQAPP b0 ... bn-1`; `len` is the number of bytes (R250). -/
  | txqapp (bytes : List Byte)
  /-- `GETTXQ` (R252). -/
  | gettxq
  /-- `NEWTX` (R251). -/
  | newtx
  /-- `REPSTAT` (R253). -/
  | repstat
  /-- `ETU rdr` (R200). -/
  | etu (rdr : Bool)
  /-- `GVIOL` (R232). -/
  | gviol
  deriving DecidableEq, Repr

end Sys2Proof
end

