-- ==== Sys2Proof/WellFormed.lean ====
section
/-! DEFINITION. Which terms of `Instr` have an encoding: the `len` field of `SETATR` is 8 bits wide
and that of `TXQAPP` 12 bits (30_encoding.md R81, R82, R84). Every other operand fills its field. -/

namespace Sys2Proof

/-- The `len` field of `SETATR` is 7:0, that of `TXQAPP` 11:0 (R81, R82). A longer operand is not an
event; a shorter one that exceeds `ATR_MAX` or `TXQ_FRAME_MAX` is an event that is rejected (R84). -/
def Instr.wellFormed : Instr → Bool
  | .setatr bytes => decide (bytes.length < 256)
  | .txqapp bytes => decide (bytes.length < 4096)
  | .init _ _ _ _ _ | .iochgVcc _ | .iochgRst _ | .iochgClk _ | .rxb _ _ | .txrdy _ | .wthalf
  | .wtexp | .gettxq | .newtx | .repstat | .etu _ | .gviol => true

end Sys2Proof
end

