-- ==== Sys2Proof/Decode.lean ====
section
/-! DEFINITION. Decoding the words of the event port (30_encoding.md R81 to R85, 20_memory.md R75),
total on every list of words; then the encoder, from the same tables. -/

namespace Sys2Proof

/-! ### Fields (R81, R82) -/

/-- `op = w[15:12]`. -/
def EventWord.op (w : EventWord) : BitVec 4 := w.extractLsb' 12 4

/-- `slot = w[11:10]`. -/
def EventWord.slot (w : EventWord) : BitVec 2 := w.extractLsb' 10 2

/-- `tc = w[9:8]`. -/
def EventWord.tc (w : EventWord) : BitVec 2 := w.extractLsb' 8 2

/-- `uart = w[7:6]`. -/
def EventWord.uart (w : EventWord) : BitVec 2 := w.extractLsb' 6 2

/-- `inep = w[5:3]`. -/
def EventWord.inep (w : EventWord) : BitVec 3 := w.extractLsb' 3 3

/-- `irqep = w[2:0]`. -/
def EventWord.irqep (w : EventWord) : BitVec 3 := w.extractLsb' 0 3

/-- `sig = w[2:1]`: 0 VCC, 1 RST, 2 CLK. -/
def EventWord.sig (w : EventWord) : BitVec 2 := w.extractLsb' 1 2

/-- `w[0]`: `active`, `nack` and `rdr`. -/
def EventWord.bit0 (w : EventWord) : Bool := w.getLsbD 0

/-- `perr = w[8]`. -/
def EventWord.perr (w : EventWord) : Bool := w.getLsbD 8

/-- `w[7:0]`: `byte`, and `len` of `SETATR`. -/
def EventWord.byte (w : EventWord) : Byte := w.extractLsb' 0 8

/-- `w[11:0]`: `sub`, and `len` of `TXQAPP`. -/
def EventWord.low12 (w : EventWord) : BitVec 12 := w.extractLsb' 0 12

/-- `w[15:8]`, which a data word has at zero (R84, format D). -/
def EventWord.high8 (w : EventWord) : BitVec 8 := w.extractLsb' 8 8

/-! ### Headers -/

/-- What a word in header position announces: an event of one word, or a format L header that owes
`len` data words (R84). -/
inductive Header where
  | single (i : Instr)
  | setatr (len : Nat)
  | txqapp (len : Nat)
  deriving DecidableEq, Repr

/-- Format S: bits 11:3 zero, `sig` not 3 (R81, R85). -/
def decodeIochg (w : EventWord) : Option Header :=
  if w.extractLsb' 3 9 = 0 then
    if w.sig = 0 then some (.single (.iochgVcc w.bit0))
    else if w.sig = 1 then some (.single (.iochgRst w.bit0))
    else if w.sig = 2 then some (.single (.iochgClk w.bit0))
    else none
  else none

/-- Format N of op 5: `sub` 0 `WTHALF`, 1 `WTEXP` (R83). -/
def decodeTimer (w : EventWord) : Option Header :=
  if w.low12 = 0 then some (.single .wthalf)
  else if w.low12 = 1 then some (.single .wtexp)
  else none

/-- Format N of op 8: `sub` 0 `GETTXQ`, 1 `NEWTX`, 2 `REPSTAT` (R83). -/
def decodeTask (w : EventWord) : Option Header :=
  if w.low12 = 0 then some (.single .gettxq)
  else if w.low12 = 1 then some (.single .newtx)
  else if w.low12 = 2 then some (.single .repstat)
  else none

/-- The header a word is, by opcode (R83); `none` is an illegal word (R85). -/
def decodeHeader (w : EventWord) : Option Header :=
  if w.op = 1 then some (.single (.init w.slot w.tc w.uart w.inep w.irqep))
  else if w.op = 2 then decodeIochg w
  else if w.op = 3 then
    if w.extractLsb' 9 3 = 0 then some (.single (.rxb w.perr w.byte)) else none
  else if w.op = 4 then
    if w.extractLsb' 1 11 = 0 then some (.single (.txrdy w.bit0)) else none
  else if w.op = 5 then decodeTimer w
  else if w.op = 6 then
    if w.extractLsb' 8 4 = 0 then some (.setatr w.byte.toNat) else none
  else if w.op = 7 then some (.txqapp w.low12.toNat)
  else if w.op = 8 then decodeTask w
  else if w.op = 9 then
    if w.extractLsb' 1 11 = 0 then some (.single (.etu w.bit0)) else none
  else if w.op = 10 then
    if w.low12 = 0 then some (.single .gviol) else none
  else none

/-! ### Events -/

/-- What the words waiting on the event port are. -/
inductive Decoded where
  /-- No word. -/
  | empty
  /-- A whole event, and the words after it. -/
  | instr (i : Instr) (rest : List EventWord)
  /-- An illegal word (R85), one word long, and the words after it. -/
  | illegal (rest : List EventWord)
  /-- A data word with bits 15:8 not zero (R84, U7). -/
  | badData
  /-- The words end with data words still owed (U7). -/
  | owed
  deriving DecidableEq, Repr

/-- The data words of a format L event: `n` words of format D, byte `i` in word `i` (R82, R84). -/
def decodeData (n : Nat) (ws : List EventWord) (mk : List Byte → Instr) : Decoded :=
  if (ws.take n).any (fun d => d.high8 != 0) then .badData
  else if ws.length < n then .owed
  else .instr (mk ((ws.take n).map EventWord.byte)) (ws.drop n)

/-- Decode the words of the event port, oldest first. -/
def decode : List EventWord → Decoded
  | [] => .empty
  | w :: ws =>
    match decodeHeader w with
    | none => .illegal ws
    | some (.single i) => .instr i ws
    | some (.setatr n) => decodeData n ws .setatr
    | some (.txqapp n) => decodeData n ws .txqapp

/-! ### The encoder -/

/-- A data word: bits 15:8 zero, the byte in 7:0 (format D). -/
def dataWord (b : Byte) : EventWord := (0 : BitVec 8) ++ b

/-- Format F and S words: everything but bit 0 fixed. -/
def flagWord (fixed : BitVec 15) (flag : Bool) : EventWord := fixed ++ BitVec.ofBool flag

/-- The words of an event (R83, R84). -/
def encode : Instr → List EventWord
  | .init slot tc uart inep irqep => [(1 : BitVec 4) ++ slot ++ tc ++ uart ++ inep ++ irqep]
  | .iochgVcc active => [flagWord 0x1000 active]
  | .iochgRst active => [flagWord 0x1001 active]
  | .iochgClk active => [flagWord 0x1002 active]
  | .rxb perr byte => [(0x18 : BitVec 7) ++ BitVec.ofBool perr ++ byte]
  | .txrdy nack => [flagWord 0x2000 nack]
  | .wthalf => [0x5000]
  | .wtexp => [0x5001]
  | .setatr bytes => ((0x60 : BitVec 8) ++ BitVec.ofNat 8 bytes.length) :: bytes.map dataWord
  | .txqapp bytes => ((7 : BitVec 4) ++ BitVec.ofNat 12 bytes.length) :: bytes.map dataWord
  | .gettxq => [0x8000]
  | .newtx => [0x8001]
  | .repstat => [0x8002]
  | .etu rdr => [flagWord 0x4800 rdr]
  | .gviol => [0xA000]

/-! ### The opcode table's words -/

/-- The data words a header owes (R84). -/
def owedWords (w : EventWord) : Nat :=
  match decodeHeader w with
  | some (.setatr n) => n
  | some (.txqapp n) => n
  | some (.single _) => 0
  | none => 0

/-- The event words of an instruction whose bits are `w`, bit 0 the least significant bit of the first
word: the words `nbits` spans (at least one), then zero words for the data words owed above them. -/
def portWords (nbits w : Nat) : List EventWord :=
  (List.range (max ((nbits + 15) / 16) (1 + owedWords (BitVec.ofNat 16 w)))).map
    (fun k => BitVec.ofNat 16 (w >>> (16 * k)))

/-- The event the decoder reads from an instruction whose bits are `w`, numbered as
spec/opcode_table.json numbers them; every bit above `nbits` is zero. -/
def decodeTableWord (nbits w : Nat) : Option Instr :=
  match decode (portWords nbits (w % 2 ^ max 16 nbits)) with
  | .instr i _ => some i
  | .empty | .illegal _ | .badData | .owed => none

end Sys2Proof
end

