-- ==== Sys2Proof/Config.lean ====
section
/-! DEFINITION. The configuration record of 00_scope.md R7 with its defaults, and the F and D tables
of 43_pps_and_fd.md R180 and R181. A machine carries its configuration beside its registers
(`State.config`), and no event writes it (10_state.md R42). The legal ranges (R7,
93_implementation_defined.md U8) are `configInRange` and `configLegal` in Sys2Proof/Machine/Init.lean. -/

namespace Sys2Proof

/-- The implementation parameters of R7, as plain data. A field's default is the default of R7's table. -/
structure Config where
  /-- `ATR_MAX`: largest ATR length in bytes. -/
  atrMax : Nat := 33
  /-- `DEFAULT_ATR`: the ATR held after `INIT` (R166). Whether it must satisfy `ATR_VALID` is the one condition
  U8 lets a modeller lift (log entry 15, DESIGN CHOICE). -/
  defaultAtr : List Byte := [0x3B, 0x02, 0x14, 0x50]
  /-- `FI_DEFAULT`: index of the default F. -/
  fiDefault : BitVec 4 := 1
  /-- `DI_DEFAULT`: index of the default D. -/
  diDefault : BitVec 4 := 1
  /-- `FTAB`: F by index, 0 marks a reserved index (R180). -/
  ftab : List (BitVec 16) :=
    [372, 372, 558, 744, 1116, 1488, 1860, 0, 0, 512, 768, 1024, 1536, 2048, 0, 0]
  /-- `DTAB`: D by index, 0 marks a reserved index (R181). -/
  dtab : List (BitVec 8) := [0, 1, 2, 4, 8, 16, 32, 64, 12, 20, 0, 0, 0, 0, 0, 0]
  /-- The pairs of non-reserved indices by which the configuration narrows `FD_SUPPORTED` (R182); the
  predicate itself is `fdSupported`. R182 counts 11 values of `fi` where its predicate accepts 12 over
  `FTAB`, 0 to 6 and 9 to 13: the predicate is followed, fi = 0 included (log entry 16, DESIGN CHOICE). -/
  fdWithdrawn : List (BitVec 4 × BitVec 4) := []
  /-- `WI`: the waiting-time integer. -/
  wi : Nat := 10
  /-- `PARITY_RETRY_BUDGET`: consecutive parity failures that halt. -/
  parityRetryBudget : Nat := 3
  /-- `RESET_HOLD_MIN_ETU`: etu ticks RST must stay asserted. -/
  resetHoldMinEtu : Nat := 2
  /-- `ATR_DELAY_ETU`: etu from RST release to the first ATR start bit. -/
  atrDelayEtu : Nat := 2
  /-- `TURNAROUND_ETU`: least etu from a received start edge to a transmitted one. -/
  turnaroundEtu : Nat := 16
  /-- `EXTRA_GUARD_N`: extra guard slots after the 12-etu character. -/
  extraGuardN : Nat := 0
  /-- `ERR_SIGNAL_ETU`: length of the error signal in etu. -/
  errSignalEtu : Nat := 1
  /-- `TXQ_FRAMES_MAX`: frames the TX queue holds. -/
  txqFramesMax : Nat := 8
  /-- `TXQ_FRAME_MAX`: bytes in one frame. -/
  txqFrameMax : Nat := 260
  deriving DecidableEq, Repr

end Sys2Proof
end

