-- ==== Sys2Proof/Machine/State.lean ====
section
/-! DEFINITION. The registers of one engine instance (10_state.md R20 to R34), as plain data grouped as those
rules group it; what R42 keeps outside them and the machine carries beside them (the configuration, the
streams on the ports); the state before `INIT`, and the ways a step can stop. -/

namespace Sys2Proof.Machine

/-! ### Registers with a fixed set of values -/

/-- `PHASE` (R22). The codes 6 and 7 are never produced (93 U6). -/
inductive Phase where
  | poweredOff
  | resetAsserted
  | atrDelivery
  | ppsNegotiation
  | tpduExchange
  | errorHalt
  deriving DecidableEq, Repr

/-- `ERR_CAUSE` (R30). The codes 7 to 15 are never produced (93 U6). -/
inductive ErrCause where
  | none
  | atrMalformed
  | parityRetry
  | wtExpired
  | fdUnsupported
  | ppsMalformed
  | guardViolation
  deriving DecidableEq, Repr

/-- `FR_MODE` (R33). The code 3 is never produced (93 U6). -/
inductive FrMode where
  | idle
  | tx
  | rx
  deriving DecidableEq, Repr

/-! ### Register groups -/

/-- Identity registers (R21), written by `INIT` only. -/
structure Ident where
  /-- `SLOT` -/
  slot : BitVec 2
  /-- `TC_CHAN` -/
  tcChan : BitVec 2
  /-- `UART_CHAN` -/
  uartChan : BitVec 2
  /-- `USB_IN_EP`: read by no rule -/
  usbInEp : BitVec 3
  /-- `USB_IRQ_EP`: read by no rule -/
  usbIrqEp : BitVec 3
  /-- `INITED` -/
  inited : Bool
  deriving DecidableEq, Repr

/-- Line latches (R23); true is active in the sense of R16. -/
structure Lines where
  /-- `VCC` -/
  vcc : Bool
  /-- `RST` -/
  rst : Bool
  /-- `CLK` -/
  clk : Bool
  deriving DecidableEq, Repr

/-- The ATR holder (R24). -/
structure AtrHolder where
  /-- `ATR[0..ATR_MAX-1]` -/
  buf : List Byte
  /-- `ATR_LEN` -/
  len : BitVec 6
  /-- `ATR_IDX` -/
  idx : BitVec 6
  /-- `ATR_DONE` -/
  done : Bool
  /-- `PPS_CAPABLE` -/
  ppsCapable : Bool
  deriving DecidableEq, Repr

/-- The pending ATR (R25). -/
structure PendingAtr where
  /-- `PATR[0..ATR_MAX-1]` -/
  buf : List Byte
  /-- `PATR_LEN` -/
  len : BitVec 6
  /-- `ATR_PENDING` -/
  pending : Bool
  deriving DecidableEq, Repr

/-- Indices of F and D in force, and of those a PPS selected (R26). -/
structure FdRegs where
  /-- `FI` -/
  fi : BitVec 4
  /-- `DI` -/
  di : BitVec 4
  /-- `NFI` -/
  nfi : BitVec 4
  /-- `NDI` -/
  ndi : BitVec 4
  deriving DecidableEq, Repr

/-- Waiting time (R27). -/
structure WaitRegs where
  /-- `WT_TICKS`, 0 when the supervision is disabled -/
  ticks : BitVec 24
  /-- `WT_CNT` -/
  cnt : BitVec 24
  /-- `WT_HALF` -/
  half : Bool
  /-- `WT_FULL` -/
  full : Bool
  deriving DecidableEq, Repr

/-- PPS registers (R28). -/
structure PpsRegs where
  /-- `PPS_REQ[0..5]` -/
  req : List Byte
  /-- `PPS_REQ_LEN` -/
  reqLen : BitVec 3
  /-- `PPS_EXP_LEN` -/
  expLen : BitVec 3
  /-- `PPS_RESP[0..5]` -/
  resp : List Byte
  /-- `PPS_RESP_LEN` -/
  respLen : BitVec 3
  /-- `PPS_RESP_IDX` -/
  respIdx : BitVec 3
  deriving DecidableEq, Repr

/-- Byte-level counters and the retransmission sequencer (R29). -/
structure SeqRegs where
  /-- `RETRY_CNT` -/
  retryCnt : BitVec 4
  /-- `TX_LAST` -/
  txLast : Byte
  /-- `TX_LAST_VALID` -/
  txLastValid : Bool
  /-- `TX_ACTIVE` -/
  txActive : Bool
  deriving DecidableEq, Repr

/-- Error record (R30). -/
structure ErrRegs where
  /-- `ERR_CAUSE` -/
  cause : ErrCause
  /-- `CONTRACT_ERR` -/
  contractErr : Bool
  deriving DecidableEq, Repr

/-- The TX queue (R31). -/
structure TxQueue where
  /-- `TXQ`, head frame first -/
  frames : List (List Byte)
  /-- `TXQ_HEAD_OFF` -/
  headOff : BitVec 12
  deriving DecidableEq, Repr

/-- Line control (R32). -/
structure LineCtl where
  /-- `DIR`: bit 0 RX, bit 1 TX -/
  dir : BitVec 2
  /-- `IO_DRV`: true releases the line, false pulls it low -/
  ioDrv : Bool
  /-- `ERRSIG_CNT` -/
  errsigCnt : BitVec 2
  deriving DecidableEq, Repr

/-- Framer (R33). -/
structure FramerRegs where
  /-- `FR_MODE` -/
  mode : FrMode
  /-- `FR_SLOT` -/
  slot : BitVec 5
  /-- `SHIFT`: bit 0 start bit, bits 1 to 8 data, bit 9 parity -/
  shift : BitVec 10
  /-- `THR` -/
  thr : Byte
  /-- `THR_VALID` -/
  thrValid : Bool
  /-- `TXRDY_PEND` -/
  txrdyPend : Bool
  /-- `NACK_SEEN` -/
  nackSeen : Bool
  /-- `HOLDOFF` -/
  holdoff : BitVec 8
  deriving DecidableEq, Repr

/-- Reset-hold counter and the divider's copy of F and D (R34). -/
structure EngineRegs where
  /-- `RST_HOLD_CNT` -/
  rstHoldCnt : BitVec 8
  /-- `ENG_F` -/
  engF : BitVec 16
  /-- `ENG_D` -/
  engD : BitVec 8
  deriving DecidableEq, Repr

/-- The streams on the three ports of R80, oldest first: the words that wait on the event port
(log entry 1), and the trace of all that has left on the command port and the return port (log entry 2).
They are no registers (R42). -/
structure Ports where
  events : List EventWord
  cmds : List CmdWord
  rets : List (BitVec 8)
  deriving DecidableEq, Repr

/-- The registers of one instance: its whole state in the sense of R20. -/
structure Registers where
  ident : Ident
  phase : Phase
  lines : Lines
  atr : AtrHolder
  patr : PendingAtr
  fd : FdRegs
  wt : WaitRegs
  pps : PpsRegs
  seq : SeqRegs
  err : ErrRegs
  txq : TxQueue
  line : LineCtl
  fr : FramerRegs
  eng : EngineRegs
  deriving DecidableEq, Repr

/-- A machine as a step sees it: the registers, and beside them what R42 says is no register, namely the
configuration (an argument of the step relation, written by no event; log entry 8) and the streams on the
ports (its inputs and outputs; log entries 1, 2). The step relation over the registers alone, with the
configuration as its argument and the outputs as its result, is `transition` in
Sys2Proof/Machine/Step.lean. -/
structure State where
  ident : Ident
  phase : Phase
  lines : Lines
  atr : AtrHolder
  patr : PendingAtr
  fd : FdRegs
  wt : WaitRegs
  pps : PpsRegs
  seq : SeqRegs
  err : ErrRegs
  txq : TxQueue
  line : LineCtl
  fr : FramerRegs
  eng : EngineRegs
  config : Config
  ports : Ports
  deriving DecidableEq, Repr

/-- The registers of a machine. -/
def State.registers (s : State) : Registers :=
  { ident := s.ident, phase := s.phase, lines := s.lines, atr := s.atr, patr := s.patr, fd := s.fd,
    wt := s.wt, pps := s.pps, seq := s.seq, err := s.err, txq := s.txq, line := s.line, fr := s.fr,
    eng := s.eng }

/-- The machine with the given registers, configuration and ports. -/
def Registers.machine (r : Registers) (c : Config) (p : Ports) : State :=
  { ident := r.ident, phase := r.phase, lines := r.lines, atr := r.atr, patr := r.patr, fd := r.fd,
    wt := r.wt, pps := r.pps, seq := r.seq, err := r.err, txq := r.txq, line := r.line, fr := r.fr,
    eng := r.eng, config := c, ports := p }

/-- A machine fault. There is none: every error of 60_exceptions.md R280 is a status, the phase
`ERROR_HALT` or the flag `CONTRACT_ERR`, each a next state. -/
inductive Fault where
  deriving DecidableEq, Repr

/-- Inputs to which the spec gives no meaning. -/
inductive Refusal where
  /-- An instruction without a meaning in this model, by its mnemonic. Raised by no arm of `exec`. Safe. -/
  | notModelled (mnemonic : String)
  /-- An event other than `INIT` before `INIT` (40 R115, 93 U1). Raised by every meaning but `INIT`'s,
  and by `step` on an illegal word. Safe: the spec refuses the input too. -/
  | beforeInit
  /-- `INIT` on a machine whose configuration is outside the ranges of R7 (93 U8). Raised by `INIT`'s
  meaning. Safe: the spec refuses the configuration too. -/
  | illegalConfig
  /-- A data word with bits 15:8 not zero (30 R84, 93 U7). Raised by `step`. Safe. -/
  | malformedDataWord
  /-- The words on the event port end with data words still owed (20 R75, 93 U7). Raised by `step`. Safe. -/
  | dataWordsOwed
  deriving DecidableEq, Repr

/-- The machine before `INIT`, under a configuration. The spec leaves every register but `INITED` unspecified
there (R20); the values chosen are those `INIT` will give, with identity 0 (log entry 3, DESIGN CHOICE). -/
def State.beforeInit (c : Config) : State where
  ident :=
    { slot := 0, tcChan := 0, uartChan := 0, usbInEp := 0, usbIrqEp := 0, inited := false }
  phase := .poweredOff
  lines := { vcc := false, rst := false, clk := false }
  atr :=
    { buf := c.defaultAtr ++ List.replicate (c.atrMax - c.defaultAtr.length) 0
      len := BitVec.ofNat 6 c.defaultAtr.length, idx := 0, done := false, ppsCapable := false }
  patr := { buf := List.replicate c.atrMax 0, len := 0, pending := false }
  fd := { fi := c.fiDefault, di := c.diDefault, nfi := c.fiDefault, ndi := c.diDefault }
  wt := { ticks := 0, cnt := 0, half := false, full := false }
  pps :=
    { req := List.replicate 6 0, reqLen := 0, expLen := 0, resp := List.replicate 6 0, respLen := 0,
      respIdx := 0 }
  seq := { retryCnt := 0, txLast := 0, txLastValid := false, txActive := false }
  err := { cause := .none, contractErr := false }
  txq := { frames := [], headOff := 0 }
  line := { dir := 0, ioDrv := true, errsigCnt := 0 }
  fr :=
    { mode := .idle, slot := 0, shift := 0, thr := 0, thrValid := false, txrdyPend := false,
      nackSeen := false, holdoff := 0 }
  eng :=
    { rstHoldCnt := 0, engF := c.ftab.getD c.fiDefault.toNat 0
      engD := c.dtab.getD c.diDefault.toNat 0 }
  config := c
  ports := { events := [], cmds := [], rets := [] }

/-- The machine before `INIT` with the default configuration of R7. Another configuration gives
`State.beforeInit` of it (log entry 8). -/
def State.reset : State := State.beforeInit {}

/-! ### Updates: one setter per register group (their lemmas: Sys2Proof/Laws/State.lean) -/

/-- Write the identity registers (R21). -/
def State.withIdent (s : State) (v : Ident) : State := { s with ident := v }

/-- Write the protocol phase (R22). -/
def State.withPhase (s : State) (v : Phase) : State := { s with phase := v }

/-- Write the line latches (R23). -/
def State.withLines (s : State) (v : Lines) : State := { s with lines := v }

/-- Write the ATR holder (R24). -/
def State.withAtr (s : State) (v : AtrHolder) : State := { s with atr := v }

/-- Write the pending ATR (R25). -/
def State.withPatr (s : State) (v : PendingAtr) : State := { s with patr := v }

/-- Write the F/D indices (R26). -/
def State.withFd (s : State) (v : FdRegs) : State := { s with fd := v }

/-- Write the waiting time (R27). -/
def State.withWt (s : State) (v : WaitRegs) : State := { s with wt := v }

/-- Write the PPS registers (R28). -/
def State.withPps (s : State) (v : PpsRegs) : State := { s with pps := v }

/-- Write the sequencer (R29). -/
def State.withSeq (s : State) (v : SeqRegs) : State := { s with seq := v }

/-- Write the error record (R30). -/
def State.withErr (s : State) (v : ErrRegs) : State := { s with err := v }

/-- Write the TX queue (R31). -/
def State.withTxq (s : State) (v : TxQueue) : State := { s with txq := v }

/-- Write the line control (R32). -/
def State.withLine (s : State) (v : LineCtl) : State := { s with line := v }

/-- Write the framer (R33). -/
def State.withFr (s : State) (v : FramerRegs) : State := { s with fr := v }

/-- Write the reset-hold counter and divider (R34). -/
def State.withEng (s : State) (v : EngineRegs) : State := { s with eng := v }

/-- Write the streams on the ports (log entries 1, 2). -/
def State.withPorts (s : State) (v : Ports) : State := { s with ports := v }

end Sys2Proof.Machine
end

