-- ==== Sys2Proof/Machine/Operands.lean ====
section
/-! DEFINITION. Operand forms: buffer access (20_memory.md R61), the bit primitives of 00_scope.md R10, the
numeric codes of 10_state.md R22 and R30, the F and D tables and the waiting-time value of
43_pps_and_fd.md, the character of 44_framer.md R209, the status codes and the command words of
30_encoding.md R86 to R88, and the STATUS record of 46_txqueue_and_status.md R256. -/

namespace Sys2Proof.Machine

/-! ### Byte buffers (R61, R162) -/

/-- `BUF[i]`. An index outside the buffer is never produced (R61); the total function answers 0 there
(log entry 10). -/
def rdBuf (buf : List Byte) (i : Nat) : Byte := buf.getD i 0

/-- `BUF[i] <- v`. -/
def wrBuf (buf : List Byte) (i : Nat) (v : Byte) : List Byte := buf.set i v

/-- A buffer of `n` bytes that holds `bytes` and zeros above them (R110, R162). -/
def loadBuf (n : Nat) (bytes : List Byte) : List Byte :=
  bytes.take n ++ List.replicate (n - bytes.length) 0

/-! ### Bit primitives (R10) -/

/-- `xor_reduce(b0, ..., bn)`. -/
def xorReduce (bytes : List Byte) : Byte := bytes.foldl (· ^^^ ·) 0

/-- `xor_bits(v)`: is the number of one bits odd? -/
def xorBits {n : Nat} (v : BitVec n) : Bool :=
  (List.range n).foldl (fun acc i => acc ^^ v.getLsbD i) false

/-- `popcount(v)`. -/
def popcount {n : Nat} (v : BitVec n) : Nat :=
  (List.range n).foldl (fun acc i => acc + (v.getLsbD i).toNat) 0

/-! ### Numeric codes -/

/-- The code of a phase (R22). -/
def phaseCode : Phase → BitVec 3
  | .poweredOff => 0
  | .resetAsserted => 1
  | .atrDelivery => 2
  | .ppsNegotiation => 3
  | .tpduExchange => 4
  | .errorHalt => 5

/-- The code of an error cause (R30). -/
def causeCode : ErrCause → BitVec 4
  | .none => 0
  | .atrMalformed => 1
  | .parityRetry => 2
  | .wtExpired => 3
  | .fdUnsupported => 4
  | .ppsMalformed => 5
  | .guardViolation => 6

/-- The status codes of R88 by name. -/
inductive Status where
  | stOk
  | stIdle
  | stDeferred
  | errPhase
  | errAtrLen
  | errAtrMalformed
  | errRetry
  | errTxqLen
  | errTxqFull
  | errIllegal
  deriving DecidableEq, Repr

/-- The 8-bit value of a status code (R88). -/
def statusCode : Status → BitVec 8
  | .stOk => 0
  | .stIdle => 1
  | .stDeferred => 2
  | .errPhase => 8
  | .errAtrLen => 9
  | .errAtrMalformed => 10
  | .errRetry => 11
  | .errTxqLen => 12
  | .errTxqFull => 13
  | .errIllegal => 15

/-! ### F, D and the waiting time (R180, R181, R182, R188) -/

/-- `FTAB[fi]` (R180). -/
def fOf (c : Config) (fi : BitVec 4) : BitVec 16 := c.ftab.getD fi.toNat 0

/-- `DTAB[di]` (R181). -/
def dOf (c : Config) (di : BitVec 4) : BitVec 8 := c.dtab.getD di.toNat 0

/-- `FD_SUPPORTED(fi, di)` (R182): both indices not reserved, unless the configuration withdraws the pair.
R182 counts 11 values of `fi` in prose, while its predicate over R180's table accepts 12, `fi = 0`
(F = 372) among them; the predicate is followed (log entry 16, DESIGN CHOICE). -/
def fdSupported (c : Config) (fi di : BitVec 4) : Bool :=
  fOf c fi != 0 && dOf c di != 0 && !c.fdWithdrawn.contains (fi, di)

/-- The value given to UPDATE_WT when the waiting time is armed: `960 * WI * DTAB[DI]` (R188). -/
def wtValue (c : Config) (di : BitVec 4) : BitVec 24 :=
  BitVec.ofNat 24 (960 * c.wi * (dOf c di).toNat)

/-! ### The character (R203, R209) -/

/-- The ten slots of the character of a byte: the value of `SHIFT` with the parity bit at 9, the byte at
8:1 and the start bit at 0 (R209). -/
def charFrame (b : Byte) : BitVec 10 := BitVec.ofBool (xorBits b) ++ b ++ (0 : BitVec 1)

/-- The byte of a character: `SHIFT[8:1]` (R209). -/
def charByte (shift : BitVec 10) : Byte := shift.extractLsb' 1 8

/-- `SHIFT[i] <- level` (R205). -/
def setSlot (shift : BitVec 10) (i : Nat) (level : Bool) : BitVec 10 :=
  (shift &&& ~~~(1#10 <<< i)) ||| ((BitVec.ofBool level).setWidth 10 <<< i)

/-! ### Commands (R86, R87) -/

/-- The commands of R87 with their operands; STATUS carries its three data words (R256). -/
inductive Command where
  | setFd (f : BitVec 16) (d : BitVec 8)
  | updateWt (ticks : BitVec 24)
  | resetWt
  | driveIo (level : Bool)
  | txByte (byte : Byte)
  | enable (mask : BitVec 2)
  | waitTxIdle
  | requestIrq
  | rxDeliver (byte : Byte)
  | status (w1 w2 w3 : BitVec 32)
  deriving DecidableEq, Repr

/-- A command word: `cop` at 31:28, the channel at 27:24, the payload at 23:0 (R86). -/
def cmdWord (cop : BitVec 4) (chan : BitVec 2) (payload : BitVec 24) : CmdWord :=
  cop ++ (0 : BitVec 2) ++ chan ++ payload

/-- The words of a command of the instance with the given identity (R86, R87). -/
def commandWords (id : Ident) : Command → List CmdWord
  | .setFd f d => [cmdWord 1 id.uartChan (f ++ d)]
  | .updateWt ticks => [cmdWord 2 id.tcChan ticks]
  | .resetWt => [cmdWord 3 id.tcChan 0]
  | .driveIo level => [cmdWord 4 id.uartChan ((0 : BitVec 23) ++ BitVec.ofBool level)]
  | .txByte byte => [cmdWord 5 id.uartChan ((0 : BitVec 16) ++ byte)]
  | .enable mask => [cmdWord 6 id.uartChan ((0 : BitVec 22) ++ mask)]
  | .waitTxIdle => [cmdWord 7 id.uartChan 0]
  | .requestIrq => [cmdWord 8 id.uartChan 0]
  | .rxDeliver byte => [cmdWord 9 id.slot ((0 : BitVec 16) ++ byte)]
  | .status w1 w2 w3 => [cmdWord 10 id.slot 3, w1, w2, w3]

/-- Read the first command, its channel field and the words after it back from a command stream, by the
layout of R86 and R87; `none` where the words are no command. -/
def readCommand : List CmdWord → Option (Command × BitVec 4 × List CmdWord)
  | [] => none
  | w :: ws =>
    let chan := w.extractLsb' 24 4
    match (w.extractLsb' 28 4).toNat with
    | 1 => some (.setFd (w.extractLsb' 8 16) (w.extractLsb' 0 8), chan, ws)
    | 2 => some (.updateWt (w.extractLsb' 0 24), chan, ws)
    | 3 => some (.resetWt, chan, ws)
    | 4 => some (.driveIo (w.getLsbD 0), chan, ws)
    | 5 => some (.txByte (w.extractLsb' 0 8), chan, ws)
    | 6 => some (.enable (w.extractLsb' 0 2), chan, ws)
    | 7 => some (.waitTxIdle, chan, ws)
    | 8 => some (.requestIrq, chan, ws)
    | 9 => some (.rxDeliver (w.extractLsb' 0 8), chan, ws)
    | 10 =>
      match ws with
      | w1 :: w2 :: w3 :: rest => some (.status w1 w2 w3, chan, rest)
      | _ => none
    | _ => none

/-! ### The STATUS record (R256) -/

/-- STATUS data word W1. -/
def statusW1 (s : State) : BitVec 32 :=
  (0 : BitVec 4) ++ s.fd.di ++ s.fd.fi ++ s.seq.retryCnt ++ causeCode s.err.cause ++
    BitVec.ofBool s.seq.txActive ++ phaseCode s.phase ++ BitVec.ofBool s.atr.done ++
    BitVec.ofBool s.err.contractErr ++ BitVec.ofBool s.patr.pending ++ BitVec.ofBool s.wt.full ++
    BitVec.ofBool s.wt.half ++ BitVec.ofBool s.lines.clk ++ BitVec.ofBool s.lines.rst ++
    BitVec.ofBool s.lines.vcc

/-- STATUS data word W2. -/
def statusW2 (s : State) : BitVec 32 :=
  BitVec.ofNat 8 (min s.txq.frames.length 255) ++ dOf s.config s.fd.di ++ fOf s.config s.fd.fi

/-- STATUS data word W3. -/
def statusW3 (s : State) : BitVec 32 := (0 : BitVec 8) ++ s.wt.ticks

/-- The STATUS command of a state: a snapshot (R255, R256). -/
def statusCommand (s : State) : Command := .status (statusW1 s) (statusW2 s) (statusW3 s)

end Sys2Proof.Machine
end

