-- ==== Sys2Proof/Machine/Flags.lean ====
section
/-! DEFINITION. The one-bit conditions the rules compute from the state (10_state.md R37): which inputs are
legal now, the waiting-time thresholds, parity, and the level on the I/O line. -/

namespace Sys2Proof.Machine

/-- `RECEIVING`: is a byte from the reader legal now (41 R131)? -/
def receiving (s : State) : Bool :=
  match s.phase with
  | .atrDelivery => s.atr.done
  | .ppsNegotiation => s.pps.respLen == 0
  | .tpduExchange => true
  | .poweredOff | .resetAsserted | .errorHalt => false

/-- A delivery is in flight: `PHASE = ATR_DELIVERY and ATR_DONE = 0` (R15, R162). -/
def midDelivery (s : State) : Bool := s.phase == .atrDelivery && !s.atr.done

/-- The phases in which characters are exchanged: `ATR_DELIVERY`, `PPS_NEGOTIATION`, `TPDU_EXCHANGE`
(R232); the others are those in which `TXRDY` returns `ERR_PHASE` (R133). -/
def exchangePhase : Phase → Bool
  | .atrDelivery | .ppsNegotiation | .tpduExchange => true
  | .poweredOff | .resetAsserted | .errorHalt => false

/-- The card is active: `VCC = 1 and RST = 0` (R15). -/
def cardActive (s : State) : Bool := s.lines.vcc && !s.lines.rst

/-- The waiting time is armed: `WT_TICKS != 0` (R27). -/
def wtArmed (s : State) : Bool := s.wt.ticks != 0

/-- Half the waiting time has gone: `2 * WT_CNT >= WT_TICKS`, computed exactly (R12, R236). -/
def halfReached (w : WaitRegs) : Bool := decide (w.ticks.toNat ≤ 2 * w.cnt.toNat)

/-- The whole waiting time has gone: `WT_CNT >= WT_TICKS` (R236). -/
def fullReached (w : WaitRegs) : Bool := decide (w.ticks.toNat ≤ w.cnt.toNat)

/-- A received character has a parity error: `xor_bits(SHIFT[9:1]) = 1` (R209). -/
def charParityErr (shift : BitVec 10) : Bool := xorBits (shift.extractLsb' 1 9)

/-- `io_out`, the level the engine puts on the I/O line (R201). -/
def ioOut (s : State) : Bool :=
  if s.line.ioDrv then
    if s.fr.mode = .tx ∧ s.fr.slot.toNat ≤ 9 then s.fr.shift.getLsbD s.fr.slot.toNat else true
  else false

/-- `io_in`, the wired-AND of both sides during the slot that an `ETU` closes (R202). -/
def ioIn (rdr : Bool) (s : State) : Bool := rdr && ioOut s

/-- The framer may serve the transmitter: `DIR[1] = 1`, idle and past the hold-off (R207, R208). -/
def txServable (s : State) : Bool :=
  s.line.dir.getLsbD 1 && s.fr.mode == .idle && s.fr.holdoff == 0

end Sys2Proof.Machine
end

