-- ==== Sys2Proof/Machine/Ops.lean ====
section
/-! DEFINITION. The shared operations: the effects of the commands (44_framer.md R215 to R222), `emit` and the
return port (00_scope.md R10), the TX queue (20_memory.md R62 to R64), and the subroutines of
41_protocol_fsm.md R138 to R144. Taking an error is `halt` (R142, R287), and the two ways out of the
halt, `resetEvent` (R140) and `powerOff` (R141), stand beside it (R288). -/

namespace Sys2Proof.Machine

/-! ### Command effects -/

/-- SET_FD (R215). -/
def effSetFd (f : BitVec 16) (d : BitVec 8) (s : State) : State :=
  s.withEng { s.eng with engF := f, engD := d }

/-- UPDATE_WT (R216): with `ticks = 0` the flags keep their values. -/
def effUpdateWt (ticks : BitVec 24) (s : State) : State :=
  s.withWt
    { ticks := ticks, cnt := 0, half := s.wt.half && ticks == 0, full := s.wt.full && ticks == 0 }

/-- RESET_WT (R217). -/
def effResetWt (s : State) : State := s.withWt { s.wt with cnt := 0, half := false }

/-- DRIVE_IO (R218). -/
def effDriveIo (level : Bool) (s : State) : State := s.withLine { s.line with ioDrv := level }

/-- TX_BYTE (R219): overwrites an earlier byte. -/
def effTxByte (byte : Byte) (s : State) : State :=
  s.withFr { s.fr with thr := byte, thrValid := true }

/-- ENABLE (R220): with the TX bit 0 the held byte and the owed notification are dropped; with mask 0 the
character in flight is aborted and the line-level counters cleared. -/
def effEnable (mask : BitVec 2) (s : State) : State :=
  if mask = 0 then
    (s.withLine { s.line with dir := 0, errsigCnt := 0 }).withFr
      { s.fr with
        mode := .idle, slot := 0, shift := 0, thrValid := false, txrdyPend := false,
        nackSeen := false, holdoff := 0 }
  else if mask.getLsbD 1 then s.withLine { s.line with dir := mask }
  else
    (s.withLine { s.line with dir := mask }).withFr
      { s.fr with thrValid := false, txrdyPend := false, nackSeen := false }

/-- REQUEST_IRQ (R222). -/
def effRequestIrq (s : State) : State := s.withFr { s.fr with txrdyPend := true }

/-- The effect of a command on the engine's registers (R87). WAIT_TX_IDLE (R221), RX_DELIVER (R254) and
STATUS (R256) have none. -/
def commandEffect : Command → State → State
  | .setFd f d, s => effSetFd f d s
  | .updateWt ticks, s => effUpdateWt ticks s
  | .resetWt, s => effResetWt s
  | .driveIo level, s => effDriveIo level s
  | .txByte byte, s => effTxByte byte s
  | .enable mask, s => effEnable mask s
  | .requestIrq, s => effRequestIrq s
  | .waitTxIdle, s => s
  | .rxDeliver _, s => s
  | .status _ _ _, s => s

/-! ### Outputs -/

/-- `emit CMD(args)`: the command's words leave on the command port and its effect is applied at once
(R10). -/
def emit (c : Command) (s : State) : State :=
  (commandEffect c s).withPorts { s.ports with cmds := s.ports.cmds ++ commandWords s.ident c }

/-- `emit STATUS` (R255). -/
def emitStatus (s : State) : State := emit (statusCommand s) s

/-- Put a value on the return port (R80). -/
def ret (v : BitVec 8) (s : State) : State :=
  s.withPorts { s.ports with rets := s.ports.rets ++ [v] }

/-- `return S` of an event with a return value (R88). -/
def retStatus (c : Status) (s : State) : State := ret (statusCode c) s

/-! ### The TX queue (R62 to R64) -/

/-- `TXQ.append(frame)` (R62). -/
def txqAppend (frame : List Byte) (q : TxQueue) : TxQueue :=
  { q with frames := q.frames ++ [frame] }

/-- The byte `TXQ.pop_byte()` returns (R63). -/
def txqHeadByte (q : TxQueue) : Byte := rdBuf (q.frames.headD []) q.headOff.toNat

/-- The queue after `TXQ.pop_byte()` (R63). -/
def txqPop (q : TxQueue) : TxQueue :=
  if q.headOff.toNat + 1 = (q.frames.headD []).length then
    { frames := q.frames.tail, headOff := 0 }
  else { q with headOff := q.headOff + 1 }

/-- `TXQ.flush()` (R64). -/
def txqFlush : TxQueue := { frames := [], headOff := 0 }

/-! ### Errors that change no phase -/

/-- `CONTRACT_ERR <- 1` (R284). -/
def contractError (s : State) : State := s.withErr { s.err with contractErr := true }

/-- The effect of an illegal event word after `INIT` (R85): `CONTRACT_ERR <- 1` and `ERR_ILLEGAL` on the
return port. Also that of a second `INIT` (93 U2, log entry 5). -/
def illegalWord (s : State) : State := retStatus .errIllegal (contractError s)

/-! ### Session subroutines (R143, R144) -/

/-- `clear_session()` (R143). -/
def clearSession (s : State) : State :=
  ((((((s.withTxq txqFlush).withSeq
      { retryCnt := 0, txLast := 0, txLastValid := false, txActive := false }).withAtr
      { s.atr with idx := 0, done := false, ppsCapable := false }).withPps
      { req := List.replicate 6 0, reqLen := 0, expLen := 0, resp := List.replicate 6 0, respLen := 0,
        respIdx := 0 }).withErr { cause := .none, contractErr := false }).withWt
      { s.wt with half := false, full := false }).withEng { s.eng with rstHoldCnt := 0 }

/-- `quiesce()` (R144): ENABLE(0), DRIVE_IO(1), UPDATE_WT(0). -/
def quiesce (s : State) : State := emit (.updateWt 0) (emit (.driveIo true) (emit (.enable 0) s))

/-! ### Taking an error, and the ways out of it -/

/-- `halt(cause)`: entry to `ERROR_HALT` (R142, R287). -/
def halt (cause : ErrCause) (s : State) : State :=
  let q := quiesce s
  let h := (q.withPhase .errorHalt).withErr { q.err with cause := cause }
  emitStatus (h.withSeq { h.seq with txActive := false })

/-- Make a pending ATR the held one (R140, R167). -/
def applyPendingAtr (s : State) : State :=
  if s.patr.pending then
    (s.withAtr { s.atr with buf := s.patr.buf, len := s.patr.len }).withPatr
      { s.patr with pending := false }
  else s

/-- `FI`, `DI`, `NFI`, `NDI` at the defaults (R110, R140). -/
def fdDefaults (c : Config) : FdRegs :=
  { fi := c.fiDefault, di := c.diDefault, nfi := c.fiDefault, ndi := c.diDefault }

/-- SET_FD with the values of the indices in force. -/
def emitSetFd (s : State) : State := emit (.setFd (fOf s.config s.fd.fi) (dOf s.config s.fd.di)) s

/-- `reset_event()`: the reader's hardware reset (R140). -/
def resetEvent (s : State) : State :=
  let a := applyPendingAtr (clearSession (quiesce s))
  emitStatus ((emitSetFd (a.withFd (fdDefaults a.config))).withPhase .resetAsserted)

/-- `power_off()`: loss of VCC (R141). -/
def powerOff (s : State) : State :=
  emitStatus ((clearSession (quiesce s)).withPhase .poweredOff)

/-! ### Handing bytes to the framer -/

/-- RESET_WT when the waiting time is armed (R136, R138). -/
def restartIfArmed (s : State) : State := if wtArmed s then emit .resetWt s else s

/-- `send(b)` (R138). -/
def send (b : Byte) (s : State) : State :=
  restartIfArmed
    (emit (.txByte b)
      (s.withSeq { s.seq with txLast := b, txLastValid := true, txActive := true }))

/-- Turn the line to transmit and ask for a transmit-ready notification (R113, R139, R185): `TX_ACTIVE`,
ENABLE(TX), REQUEST_IRQ. -/
def startTransmit (s : State) : State :=
  emit .requestIrq (emit (.enable 2) (s.withSeq { s.seq with txActive := true }))

/-- `kick()` (R139). -/
def kick (s : State) : State :=
  if s.phase = .tpduExchange ∧ s.txq.frames ≠ [] ∧ s.seq.txActive = false then startTransmit s
  else s

/-! ### The handle (R115) -/

/-- The outcome of an event other than `INIT`: before `INIT` it is refused (R115, 93 U1). -/
def created (s t : State) : Host.Outcome State Fault Refusal :=
  if s.ident.inited then .next t else .refused .beforeInit

end Sys2Proof.Machine
end

