-- ==== Sys2Proof/Machine/Atr.lean ====
section
/-! DEFINITION. The ATR buffer and formatter: the validity predicate, `SETATR`, and the completion of a delivery
(42_atr.md R160, R162, R165). -/

namespace Sys2Proof.Machine

/-! ### Validity (R160) -/

/-- How many of TA, TB, TC a Y nibble announces. -/
def announcedAbc (y : BitVec 4) : Nat :=
  (y.getLsbD 0).toNat + (y.getLsbD 1).toNat + (y.getLsbD 2).toNat

/-- The loop of R160 from index `i` with Y nibble `y`: the index after the last interface byte and whether
a TCK is due, or `none` when an announced TD byte lies outside the `n` bytes. Each round but the last
reads a TD byte at a fresh index below `n`, so `n` rounds of fuel are enough. -/
def atrWalk (b : List Byte) (n : Nat) : Nat → Nat → BitVec 4 → Bool → Option (Nat × Bool)
  | 0, _, _, _ => none
  | fuel + 1, i, y, tck =>
    let j := i + announcedAbc y
    if y.getLsbD 3 then
      if n ≤ j then none
      else
        let td := rdBuf b j
        atrWalk b n fuel (j + 1) (td.extractLsb' 4 4) (tck || td.extractLsb' 0 4 != 0)
    else some (j, tck)

/-- `ATR_VALID(b, n)` (R160). -/
def atrValid (c : Config) (b : List Byte) (n : Nat) : Bool :=
  if n < 2 ∨ c.atrMax < n then false
  else if rdBuf b 0 ≠ 0x3B ∧ rdBuf b 0 ≠ 0x3F then false
  else
    match atrWalk b n n 2 ((rdBuf b 1).extractLsb' 4 4) false with
    | none => false
    | some (i, tck) =>
      i + ((rdBuf b 1).extractLsb' 0 4).toNat + tck.toNat == n &&
        (!tck || xorReduce ((b.take n).drop 1) == 0)

/-! ### SETATR (R162) -/

/-- `SETATR bytes` (R162). -/
def setAtr (bytes : List Byte) (s : State) : State :=
  if s.config.atrMax < bytes.length then retStatus .errAtrLen s
  else if atrValid s.config bytes bytes.length = false then retStatus .errAtrMalformed s
  else if midDelivery s then
    retStatus .stDeferred
      (s.withPatr
        { buf := loadBuf s.config.atrMax bytes, len := BitVec.ofNat 6 bytes.length,
          pending := true })
  else
    retStatus .stOk
      ((s.withAtr
        { s.atr with
          buf := loadBuf s.config.atrMax bytes, len := BitVec.ofNat 6 bytes.length }).withPatr
        { s.patr with pending := false })

/-- The meaning of `SETATR`. -/
def execSetatr (bytes : List Byte) (s : State) : Host.Outcome State Fault Refusal :=
  created s (setAtr bytes s)

/-! ### Completion of a delivery (R165) -/

/-- `atr_complete()` (R165). -/
def atrComplete (s : State) : State :=
  let a := emit (.updateWt (wtValue s.config s.fd.di)) (s.withAtr { s.atr with done := true })
  if a.atr.ppsCapable then a else emitStatus (a.withPhase .tpduExchange)

end Sys2Proof.Machine
end

