-- ==== Sys2Proof/Machine/Pps.lean ====
section
/-! DEFINITION. The PPS exchange: collection, evaluation and completion (43_pps_and_fd.md R184, R185, R187). -/

namespace Sys2Proof.Machine

/-- The expected length of a request whose second byte is `pps0`: `3 + popcount(PPS0[6:4])` (R184). -/
def ppsExpectedLen (pps0 : Byte) : BitVec 3 :=
  BitVec.ofNat 3 (3 + popcount (pps0.extractLsb' 4 3))

/-- The request is malformed or names a protocol other than T = 0 (R185 step 1). -/
def ppsMalformed (p : PpsRegs) : Bool :=
  xorReduce (p.req.take p.reqLen.toNat) != 0 || (rdBuf p.req 1).extractLsb' 0 4 != 0

/-- The indices a request proposes: the nibbles of PPS1, or the defaults (R185 step 2). -/
def ppsProposal (c : Config) (p : PpsRegs) : BitVec 4 × BitVec 4 :=
  if (rdBuf p.req 1).getLsbD 4 then
    ((rdBuf p.req 2).extractLsb' 4 4, (rdBuf p.req 2).extractLsb' 0 4)
  else (c.fiDefault, c.diDefault)

/-- An accepted request (R185 step 4). -/
def ppsAccept (fi di : BitVec 4) (s : State) : State :=
  startTransmit
    ((s.withFd { s.fd with nfi := fi, ndi := di }).withPps
      { s.pps with resp := s.pps.req, respLen := s.pps.reqLen, respIdx := 0 })

/-- `pps_eval()` (R185). -/
def ppsEval (s : State) : State :=
  if ppsMalformed s.pps then halt .ppsMalformed s
  else
    let p := ppsProposal s.config s.pps
    if fdSupported s.config p.1 p.2 then ppsAccept p.1 p.2 s else halt .fdUnsupported s

/-- The PPS registers after a byte has been appended to the request (R184). -/
def ppsAppend (byte : Byte) (p : PpsRegs) : PpsRegs :=
  { p with
    req := wrBuf p.req p.reqLen.toNat byte
    reqLen := p.reqLen + 1
    expLen := if p.reqLen + 1 = 2 then ppsExpectedLen byte else p.expLen }

/-- `pps_collect(byte)` (R184). -/
def ppsCollect (byte : Byte) (s : State) : State :=
  let c := s.withPps (ppsAppend byte s.pps)
  if 2 ≤ c.pps.reqLen.toNat ∧ c.pps.reqLen = c.pps.expLen then ppsEval c else c

/-- `pps_complete()` (R187). -/
def ppsComplete (s : State) : State :=
  let w := emit .waitTxIdle s
  let f := emitSetFd (w.withFd { w.fd with fi := w.fd.nfi, di := w.fd.ndi })
  let u := emit (.updateWt (wtValue f.config f.fd.di)) f
  emitStatus ((u.withPps { u.pps with respLen := 0, respIdx := 0 }).withPhase .tpduExchange)

end Sys2Proof.Machine
end

