-- ==== Sys2Proof/Machine/Protocol.lean ====
section
/-! DEFINITION. `RXB` and `TXRDY` (41_protocol_fsm.md R132 to R137). -/

namespace Sys2Proof.Machine

/-! ### RXB -/

/-- First byte after an ATR that offers PPS (R134). -/
def firstByte (byte : Byte) (s : State) : State :=
  if byte = 0xFF then
    emitStatus
      ((s.withPhase .ppsNegotiation).withPps
        { s.pps with req := wrBuf s.pps.req 0 0xFF, reqLen := 1, expLen := 0 })
  else kick (emit (.rxDeliver byte) (emitStatus (s.withPhase .tpduExchange)))

/-- Parity error on a received byte (R135). -/
def rxParityError (s : State) : State :=
  let c := s.withSeq { s.seq with retryCnt := BitVec.ofNat 4 (s.seq.retryCnt.toNat + 1) }
  if s.config.parityRetryBudget ≤ s.seq.retryCnt.toNat + 1 then halt .parityRetry c
  else
    let d := emit (.driveIo false) c
    d.withLine { d.line with errsigCnt := BitVec.ofNat 2 s.config.errSignalEtu }

/-- A good byte in a receiving state (R132). -/
def rxGoodByte (byte : Byte) (s : State) : State :=
  let g := s.withSeq { s.seq with retryCnt := 0 }
  if g.phase = .atrDelivery then firstByte byte g
  else if g.phase = .ppsNegotiation then ppsCollect byte g
  else emit (.rxDeliver byte) g

/-- `RXB byte`, `RXB.PE byte` (R132). -/
def rxb (perr : Bool) (byte : Byte) (s : State) : State :=
  if receiving s then
    let r := emit .resetWt s
    if perr then rxParityError r else rxGoodByte byte r
  else contractError s

/-- The meaning of `RXB`. -/
def execRxb (perr : Bool) (byte : Byte) (s : State) : Host.Outcome State Fault Refusal :=
  created s (rxb perr byte s)

/-! ### TXRDY -/

/-- Negative acknowledgement of a transmitted byte, with the status returned (R136). -/
def txNack (s : State) : State :=
  let c := s.withSeq { s.seq with retryCnt := BitVec.ofNat 4 (s.seq.retryCnt.toNat + 1) }
  if s.config.parityRetryBudget ≤ s.seq.retryCnt.toNat + 1 then
    retStatus .errRetry (halt .parityRetry c)
  else retStatus .stOk (restartIfArmed (emit (.txByte c.seq.txLast) c))

/-- The byte that awaited acknowledgement is acknowledged (R133 step 3). -/
def txAck (s : State) : State :=
  if s.seq.txLastValid then s.withSeq { s.seq with retryCnt := 0, txLastValid := false } else s

/-- Nothing to send: the line is turned to receive (R133 step 5). -/
def txIdle (s : State) : State :=
  retStatus .stIdle (emit (.enable 1) (s.withSeq { s.seq with txActive := false }))

/-- The third source, the TX queue (R133 step 4, R137). -/
def txFromQueue (s : State) : State :=
  if s.phase = .tpduExchange ∧ s.txq.frames ≠ [] then
    retStatus .stOk (send (txqHeadByte s.txq) (s.withTxq (txqPop s.txq)))
  else txIdle s

/-- The second source, the PPS response; its end completes the PPS (R133 step 4, R186, R187). -/
def txFromPps (s : State) : State :=
  if s.phase = .ppsNegotiation then
    if s.pps.respIdx.toNat < s.pps.respLen.toNat then
      retStatus .stOk
        (send (rdBuf s.pps.resp s.pps.respIdx.toNat)
          (s.withPps { s.pps with respIdx := s.pps.respIdx + 1 }))
    else if s.pps.respLen ≠ 0 then txFromQueue (ppsComplete s)
    else txFromQueue s
  else txFromQueue s

/-- The first source, the ATR; its end completes the delivery (R133 step 4, R164, R165). -/
def txFromAtr (s : State) : State :=
  if midDelivery s then
    if s.atr.idx.toNat < s.atr.len.toNat then
      retStatus .stOk
        (send (rdBuf s.atr.buf s.atr.idx.toNat) (s.withAtr { s.atr with idx := s.atr.idx + 1 }))
    else txFromPps (atrComplete s)
  else txFromPps s

/-- `TXRDY`, `TXRDY.NACK` (R133). -/
def txrdy (nack : Bool) (s : State) : State :=
  if exchangePhase s.phase = false then retStatus .errPhase s
  else if s.seq.txActive = false then retStatus .stIdle s
  else if s.seq.txLastValid && nack then txNack s
  else txFromAtr (txAck s)

/-- The meaning of `TXRDY`. -/
def execTxrdy (nack : Bool) (s : State) : Host.Outcome State Fault Refusal :=
  created s (txrdy nack s)

end Sys2Proof.Machine
end

