-- ==== Sys2Proof/Machine/Timers.lean ====
section
/-! DEFINITION. The guard-time and waiting-time timer engine: `WTHALF`, `WTEXP`, `GVIOL` and the counter steps of
`ETU` (45_timers.md R230 to R236). -/

namespace Sys2Proof.Machine

/-- `WTHALF` (R230). -/
def wthalf (s : State) : State :=
  if wtArmed s then emitStatus (s.withWt { s.wt with half := true }) else contractError s

/-- `WTEXP` (R231). -/
def wtexp (s : State) : State :=
  if wtArmed s then halt .wtExpired (s.withWt { s.wt with full := true })
  else if s.phase = .errorHalt then s
  else contractError s

/-- `GVIOL` (R232). -/
def gviol (s : State) : State :=
  if exchangePhase s.phase then halt .guardViolation s else contractError s

/-- The meaning of `WTHALF`. -/
def execWthalf (s : State) : Host.Outcome State Fault Refusal := created s (wthalf s)

/-- The meaning of `WTEXP`. -/
def execWtexp (s : State) : Host.Outcome State Fault Refusal := created s (wtexp s)

/-- The meaning of `GVIOL`. -/
def execGviol (s : State) : Host.Outcome State Fault Refusal := created s (gviol s)

/-! ### Counter steps of `ETU` -/

/-- Step 1, hold-off (R233). -/
def holdoffStep (s : State) : State :=
  if 0 < s.fr.holdoff.toNat then s.withFr { s.fr with holdoff := s.fr.holdoff - 1 } else s

/-- Step 2, error-signal release (R235). -/
def errsigStep (s : State) : State :=
  if 0 < s.line.errsigCnt.toNat then
    let d := s.withLine { s.line with errsigCnt := s.line.errsigCnt - 1 }
    if d.line.errsigCnt = 0 then emit (.driveIo true) d else d
  else s

/-- Step 3, reset hold, saturating at 255 (R234). -/
def rstHoldStep (s : State) : State :=
  if s.phase = .resetAsserted ∧ s.lines.rst = true ∧ s.eng.rstHoldCnt.toNat < 255 then
    s.withEng { s.eng with rstHoldCnt := s.eng.rstHoldCnt + 1 }
  else s

/-- One more tick of `WT_CNT`, saturating at 0xFFFFFF (R12, R236). -/
def wtCount (w : WaitRegs) : WaitRegs :=
  if w.cnt.toNat < 0xFFFFFF then { w with cnt := w.cnt + 1 } else w

/-- The half notification of step 6, once per restart (R236). -/
def wtHalfStep (s : State) : State :=
  if s.wt.half = false ∧ halfReached s.wt = true then wthalf s else s

/-- The expiry of step 6 (R236). -/
def wtFullStep (s : State) : State :=
  if wtArmed s = true ∧ fullReached s.wt = true then wtexp s else s

/-- Step 6, waiting time (R236). -/
def wtStep (s : State) : State :=
  if wtArmed s then wtFullStep (wtHalfStep (s.withWt (wtCount s.wt))) else s

end Sys2Proof.Machine
end

