-- ==== Sys2Proof/Machine/Framer.lean ====
section
/-! DEFINITION. `ETU`: the etu tick and the character framer (44_framer.md R200 to R208). -/

namespace Sys2Proof.Machine

/-- `NACK_SEEN` after the slot that has just ended: slot 10 is sampled for the reader's error signal
(R204). -/
def nackSample (inLevel : Bool) (f : FramerRegs) : Bool :=
  if f.slot = 10 then !inLevel else f.nackSeen

/-- The framer's registers after a transmitted slot (R204). -/
def framerTxRegs (c : Config) (inLevel : Bool) (f : FramerRegs) : FramerRegs :=
  let nack := nackSample inLevel f
  if 11 + c.extraGuardN + nack.toNat ≤ f.slot.toNat then
    { f with nackSeen := nack, mode := .idle, slot := 0, txrdyPend := true }
  else { f with nackSeen := nack, slot := f.slot + 1 }

/-- Framer, transmitting (R204). -/
def framerTx (inLevel : Bool) (s : State) : State := s.withFr (framerTxRegs s.config inLevel s.fr)

/-- The hold-off after a received character: at least `TURNAROUND_ETU - 10` (R205, R212). -/
def turnaroundHoldoff (c : Config) (h : BitVec 8) : BitVec 8 :=
  BitVec.ofNat 8 (max h.toNat (c.turnaroundEtu - 10))

/-- Slots 1 to 9 of a received character (R205). -/
def framerRxBit (inLevel : Bool) (s : State) : State :=
  let shift := setSlot s.fr.shift s.fr.slot.toNat inLevel
  if s.fr.slot = 9 then
    rxb (charParityErr shift) (charByte shift)
      (s.withFr
        { s.fr with
          shift := shift, holdoff := turnaroundHoldoff s.config s.fr.holdoff, slot := 10 })
  else s.withFr { s.fr with shift := shift, slot := s.fr.slot + 1 }

/-- Slots 10 and 11 of a received character, the reader's guard time (R205). -/
def framerRxGuard (inLevel drvPrev : Bool) (s : State) : State :=
  let a :=
    if s.fr.slot = 11 then s.withFr { s.fr with mode := .idle, slot := 0 }
    else s.withFr { s.fr with slot := 11 }
  if inLevel = false ∧ drvPrev = true then gviol a else a

/-- Framer, receiving (R205). -/
def framerRx (inLevel drvPrev : Bool) (s : State) : State :=
  if s.fr.slot.toNat ≤ 9 then framerRxBit inLevel s else framerRxGuard inLevel drvPrev s

/-- Framer, idle: start-bit detection (R206). -/
def framerIdle (inLevel drvPrev : Bool) (s : State) : State :=
  if s.line.dir.getLsbD 0 = true ∧ inLevel = false ∧ drvPrev = true then
    s.withFr { s.fr with mode := .rx, slot := 1, shift := 0 }
  else s

/-- Step 4 of `ETU`: the framer by `FR_MODE` (R200). -/
def framerStep (inLevel drvPrev : Bool) (s : State) : State :=
  match s.fr.mode with
  | .tx => framerTx inLevel s
  | .rx => framerRx inLevel drvPrev s
  | .idle => framerIdle inLevel drvPrev s

/-- Transmit service, notification (R207). -/
def txNotify (s : State) : State :=
  if s.fr.txrdyPend && txServable s then
    txrdy s.fr.nackSeen (s.withFr { s.fr with txrdyPend := false, nackSeen := false })
  else s

/-- Transmit service, load (R208). -/
def txLoad (s : State) : State :=
  if s.fr.thrValid && txServable s then
    s.withFr { s.fr with shift := charFrame s.fr.thr, thrValid := false, mode := .tx, slot := 0 }
  else s

/-- The six steps of an `ETU` with the clock running, with the two values recorded before step 1
(R200). -/
def etuSteps (inLevel drvPrev : Bool) (s : State) : State :=
  wtStep (txLoad (txNotify (framerStep inLevel drvPrev (rstHoldStep (errsigStep (holdoffStep s))))))

/-- `ETU rdr` (R200): nothing at all while `CLK = 0`. -/
def etu (rdr : Bool) (s : State) : State :=
  if s.lines.clk then etuSteps (ioIn rdr s) s.line.ioDrv s else s

/-- The meaning of `ETU`. -/
def execEtu (rdr : Bool) (s : State) : Host.Outcome State Fault Refusal := created s (etu rdr s)

end Sys2Proof.Machine
end

