-- ==== Sys2Proof/Machine/Init.lean ====
section
/-! DEFINITION. `INIT`: the legal configurations (00_scope.md R7, 93_implementation_defined.md U8) and the
creation of the handle (40_init_and_signal_monitor.md R110, R115). -/

namespace Sys2Proof.Machine

/-! ### Legal configurations -/

/-- The ranges of R7 and U8, but for the condition that `DEFAULT_ATR` satisfies `ATR_VALID`: U8 lets a
modeller lift that one, and here it is lifted (log entry 15, DESIGN CHOICE); it is kept in `configLegal`. In
its place stands what the registers need: `DEFAULT_ATR` fits the buffer. `ATR_MAX` is at most 63 and not 255,
since `ATR_LEN` and `ATR_IDX` have 6 bits (R24), and the waiting-time values fit 24 bits, which R12 takes
from its own table (log entry 15). -/
def configInRange (c : Config) : Bool :=
  decide (2 ≤ c.atrMax ∧ c.atrMax ≤ 63 ∧ c.defaultAtr.length ≤ c.atrMax) &&
    decide (c.ftab.length = 16 ∧ c.dtab.length = 16) &&
    fdSupported c c.fiDefault c.diDefault &&
    decide (1 ≤ c.wi ∧ c.wi ≤ 255) && c.dtab.all (fun d => decide (960 * c.wi * d.toNat < 2 ^ 24)) &&
    decide (1 ≤ c.parityRetryBudget ∧ c.parityRetryBudget ≤ 15) &&
    decide (c.resetHoldMinEtu ≤ 255) && decide (c.atrDelayEtu ≤ 255) &&
    decide (12 ≤ c.turnaroundEtu ∧ c.turnaroundEtu ≤ 255) && decide (c.extraGuardN ≤ 19) &&
    decide (c.errSignalEtu = 1 ∨ c.errSignalEtu = 2) &&
    decide (1 ≤ c.txqFramesMax ∧ 1 ≤ c.txqFrameMax ∧ c.txqFrameMax ≤ 4095)

/-- A legal configuration of R7: in range, and `DEFAULT_ATR` satisfies `ATR_VALID` (R7, R110, R166). Nothing
in the machine asks for the second condition, so that a malformed `DEFAULT_ATR` can be run to
`halt(ATR_MALFORMED)` as U8 allows (log entry 15, DESIGN CHOICE); R40 (b), and so the invariant, needs it. -/
def configLegal (c : Config) : Bool :=
  configInRange c && atrValid c c.defaultAtr c.defaultAtr.length

/-! ### Creation of the handle -/

/-- The register writes of R110 before `clear_session()`. -/
def initRegisters (slot tc uart : BitVec 2) (inep irqep : BitVec 3) (s : State) : State :=
  ((((((((s.withIdent
      { slot := slot, tcChan := tc, uartChan := uart, usbInEp := inep, usbIrqEp := irqep,
        inited := true }).withPhase .poweredOff).withLines
      { vcc := false, rst := false, clk := false }).withAtr
      { s.atr with
        buf := loadBuf s.config.atrMax s.config.defaultAtr,
        len := BitVec.ofNat 6 s.config.defaultAtr.length }).withPatr
      { buf := loadBuf s.config.atrMax [], len := 0, pending := false }).withFd
      (fdDefaults s.config)).withWt { s.wt with ticks := 0, cnt := 0 }).withFr
      { s.fr with thr := 0, shift := 0, mode := .idle, slot := 0 })

/-- `INIT` applied to an instance that has not been created (R110). -/
def initHandle (slot tc uart : BitVec 2) (inep irqep : BitVec 3) (s : State) : State :=
  ret (slot.setWidth 8)
    (emitSetFd
      (emit (.updateWt 0)
        (emit (.driveIo true)
          (emit (.enable 0) (clearSession (initRegisters slot tc uart inep irqep s))))))

/-- `INIT` (R110). A second `INIT` is answered as an illegal word, the effect 93 U2 allows beside a
refusal (log entry 5, DESIGN CHOICE). A configuration outside its ranges is refused (93 U8). -/
def execInit (slot tc uart : BitVec 2) (inep irqep : BitVec 3) (s : State) :
    Host.Outcome State Fault Refusal :=
  if s.ident.inited then .next (illegalWord s)
  else if configInRange s.config then .next (initHandle slot tc uart inep irqep s)
  else .refused .illegalConfig

end Sys2Proof.Machine
end

