-- ==== Sys2Proof/Machine/SignalMonitor.lean ====
section
/-! DEFINITION. The I/O signal monitor: `IOCHG.VCC`, `IOCHG.RST`, `IOCHG.CLK`
(40_init_and_signal_monitor.md R111 to R114). -/

namespace Sys2Proof.Machine

/-- `IOCHG.VCC active` (R112). -/
def iochgVcc (active : Bool) (s : State) : State :=
  let l := s.withLines { s.lines with vcc := active }
  if s.lines.vcc = false ∧ active = true then
    if l.lines.rst then resetEvent l else l
  else if s.lines.vcc = true ∧ active = false then powerOff l
  else l

/-- Start of ATR delivery at the release of RST (R113, R163). -/
def startDelivery (s : State) : State :=
  let a :=
    (s.withPhase .atrDelivery).withAtr
      { s.atr with idx := 0, done := false, ppsCapable := (rdBuf s.atr.buf 1).getLsbD 4 }
  let e := emit (.enable 2) (a.withSeq { a.seq with txActive := true })
  let h := e.withFr { e.fr with holdoff := BitVec.ofNat 8 s.config.atrDelayEtu }
  emitStatus (emit .requestIrq h)

/-- `IOCHG.RST active` (R113). -/
def iochgRst (active : Bool) (s : State) : State :=
  let l := s.withLines { s.lines with rst := active }
  if s.lines.rst = false ∧ active = true then
    if l.lines.vcc then resetEvent l else l
  else if s.lines.rst = true ∧ active = false then
    if l.phase = .resetAsserted ∧ l.config.resetHoldMinEtu ≤ l.eng.rstHoldCnt.toNat then
      if atrValid l.config l.atr.buf l.atr.len.toNat then startDelivery l else halt .atrMalformed l
    else l
  else l

/-- `IOCHG.CLK active` (R114). -/
def iochgClk (active : Bool) (s : State) : State := s.withLines { s.lines with clk := active }

/-- The meaning of `IOCHG.VCC`. -/
def execIochgVcc (active : Bool) (s : State) : Host.Outcome State Fault Refusal :=
  created s (iochgVcc active s)

/-- The meaning of `IOCHG.RST`. -/
def execIochgRst (active : Bool) (s : State) : Host.Outcome State Fault Refusal :=
  created s (iochgRst active s)

/-- The meaning of `IOCHG.CLK`. -/
def execIochgClk (active : Bool) (s : State) : Host.Outcome State Fault Refusal :=
  created s (iochgClk active s)

end Sys2Proof.Machine
end

