-- ==== Sys2Proof/Machine/TxQueue.lean ====
section
/-! DEFINITION. The TX queue manager and the status reporter: `TXQAPP`, `NEWTX`, `GETTXQ`, `REPSTAT`
(46_txqueue_and_status.md R250 to R253). -/

namespace Sys2Proof.Machine

/-- `TXQAPP bytes` (R250). -/
def txqApp (bytes : List Byte) (s : State) : State :=
  if bytes.length = 0 ∨ s.config.txqFrameMax < bytes.length then retStatus .errTxqLen s
  else if s.config.txqFramesMax ≤ s.txq.frames.length then retStatus .errTxqFull s
  else retStatus .stOk (s.withTxq (txqAppend bytes s.txq))

/-- The meaning of `TXQAPP`. -/
def execTxqapp (bytes : List Byte) (s : State) : Host.Outcome State Fault Refusal :=
  created s (txqApp bytes s)

/-- The meaning of `NEWTX` (R251). -/
def execNewtx (s : State) : Host.Outcome State Fault Refusal := created s (kick s)

/-- The meaning of `GETTXQ` (R252). -/
def execGettxq (s : State) : Host.Outcome State Fault Refusal :=
  created s (ret (s.ident.slot.setWidth 8) s)

/-- The meaning of `REPSTAT` (R253). -/
def execRepstat (s : State) : Host.Outcome State Fault Refusal := created s (emitStatus s)

end Sys2Proof.Machine
end

