-- ==== Sys2Proof/Machine/Dispatch.lean ====
section
/-! DEFINITION. The meaning of every event, by constructor (30_encoding.md R83). -/

namespace Sys2Proof.Machine

/-- One event applied to a state (00_scope.md R11). -/
def exec (i : Instr) (s : State) : Host.Outcome State Fault Refusal :=
  match i with
  | .init slot tc uart inep irqep => Sys2Proof.Machine.execInit slot tc uart inep irqep s
  | .iochgVcc active => Sys2Proof.Machine.execIochgVcc active s
  | .iochgRst active => Sys2Proof.Machine.execIochgRst active s
  | .iochgClk active => Sys2Proof.Machine.execIochgClk active s
  | .rxb perr byte => Sys2Proof.Machine.execRxb perr byte s
  | .txrdy nack => Sys2Proof.Machine.execTxrdy nack s
  | .wthalf => Sys2Proof.Machine.execWthalf s
  | .wtexp => Sys2Proof.Machine.execWtexp s
  | .setatr bytes => Sys2Proof.Machine.execSetatr bytes s
  | .txqapp bytes => Sys2Proof.Machine.execTxqapp bytes s
  | .gettxq => Sys2Proof.Machine.execGettxq s
  | .newtx => Sys2Proof.Machine.execNewtx s
  | .repstat => Sys2Proof.Machine.execRepstat s
  | .etu rdr => Sys2Proof.Machine.execEtu rdr s
  | .gviol => Sys2Proof.Machine.execGviol s

end Sys2Proof.Machine
end

