-- ==== Sys2Proof/Machine/Step.lean ====
section
/-! DEFINITION. One step: the oldest event on the event port, applied atomically (00_scope.md R11,
20_memory.md R66, R75). -/

namespace Sys2Proof.Machine

/-- The state after the words before `rest` have been taken from the event port. -/
def State.takeEvent (s : State) (rest : List EventWord) : State :=
  s.withPorts { s.ports with events := rest }

/-- One step. No event, no transition (R22); an illegal word has its effect after `INIT` and is refused
before it (R85); a malformed stream is refused (93 U7). -/
def step (s : State) : Host.Outcome State Fault Refusal :=
  match decode s.ports.events with
  | .empty => .next s
  | .instr i rest => exec i (s.takeEvent rest)
  | .illegal rest => created s (illegalWord (s.takeEvent rest))
  | .badData => .refused .malformedDataWord
  | .owed => .refused .dataWordsOwed

/-! ### The step relation over the registers alone (10_state.md R42) -/

/-- What an event gives: the registers after it, the words it emits in order, the values it returns. -/
structure Reaction where
  regs : Registers
  cmds : List CmdWord
  rets : List (BitVec 8)
  deriving DecidableEq, Repr

/-- The step relation of R42: the configuration and the event with its operands are arguments, the registers
are the state, the emitted words and the returned values are outputs and no state. `exec` is this relation on
a machine that carries the configuration and keeps the trace of the outputs beside its registers. -/
def transition (c : Config) (i : Instr) (r : Registers) : Host.Outcome Reaction Fault Refusal :=
  match exec i (r.machine c { events := [], cmds := [], rets := [] }) with
  | .next t => .next { regs := t.registers, cmds := t.ports.cmds, rets := t.ports.rets }
  | .fault f => .fault f
  | .refused f => .refused f

/-! ### The word that is run first -/

/-- Is the word an `INIT`? -/
def isInitWord (w : EventWord) : Bool := w.op == 1

/-- The state whose event port holds exactly the words of one instruction (numbered as
spec/opcode_table.json numbers its bits), so that the next step runs it. An event other than `INIT` has a
meaning only on a created instance (R115), so for it the handle counts as created (log entry 4). -/
def State.withFetchWord (s : State) (nbits w : Nat) : State :=
  ((s.takeEvent (portWords nbits (w % 2 ^ max 16 nbits))).withIdent
    { s.ident with inited := s.ident.inited || !isInitWord (BitVec.ofNat 16 w) })

end Sys2Proof.Machine
end

