-- ==== Sys2Proof/Machine/Listing.lean ====
section
/-! DEFINITION. The pseudo-instructions of 30_encoding.md R90 as lists of events, and the listing syntax of R89
(events) and R91 (results). No rule of the engine reads them. -/

namespace Sys2Proof.Machine

/-! ### Pseudo-instructions (R90) -/

/-- `ETUS n, r`. -/
def etus (n : Nat) (r : Bool) : List Instr := List.replicate n (.etu r)

/-- `IDLE n`. -/
def idle (n : Nat) : List Instr := etus n true

/-- The levels of the nine slots after the start bit of a character with the given parity level. -/
def charLevels (b : Byte) (parity : Bool) : List Bool :=
  (List.range 8).map (fun i => b.getLsbD i) ++ [parity]

/-- The twelve events of a character from the reader with the given parity level. -/
def rxCharWith (b : Byte) (parity : Bool) : List Instr :=
  .etu false :: (charLevels b parity).map .etu ++ etus 2 true

/-- `RXCHAR b`. -/
def rxChar (b : Byte) : List Instr := rxCharWith b (xorBits b)

/-- `RXCHAR.PE b`. -/
def rxCharPe (b : Byte) : List Instr := rxCharWith b (!xorBits b)

/-- `COLDRST`: R90 names `RESET_HOLD_MIN_ETU` as the count of its `ETUS`. -/
def coldRst (c : Config) : List Instr :=
  [.iochgRst true, .iochgVcc true, .iochgClk true] ++ idle c.resetHoldMinEtu ++
    [.iochgRst false]

/-- `WARMRST`. R90 writes its count as 2 and names the parameter for `COLDRST` only; here it is
`RESET_HOLD_MIN_ETU` in both, which is 2 by default (log entry 17, DESIGN CHOICE). -/
def warmRst (c : Config) : List Instr :=
  [.iochgRst true] ++ idle c.resetHoldMinEtu ++ [.iochgRst false]

/-! ### Listing syntax (R89, R91) -/

/-- The lowest `k` hexadecimal digits of a number, in capitals. -/
def hexDigits : Nat → Nat → String
  | 0, _ => ""
  | k + 1, n => hexDigits k (n / 16) ++ String.singleton ("0123456789ABCDEF".toList.getD (n % 16) '0')

/-- Bytes as two-digit hexadecimal separated by spaces. -/
def hexBytes (bytes : List Byte) : String :=
  " ".intercalate (bytes.map (fun b => hexDigits 2 b.toNat))

/-- A bit as a decimal digit. -/
def bitText (b : Bool) : String := if b then "1" else "0"

/-- The line of an event (R89). -/
def eventLine : Instr → String
  | .init slot tc uart inep irqep =>
    "INIT " ++ ", ".intercalate
      [toString slot.toNat, toString tc.toNat, toString uart.toNat, toString inep.toNat,
        toString irqep.toNat]
  | .iochgVcc a => "IOCHG.VCC " ++ bitText a
  | .iochgRst a => "IOCHG.RST " ++ bitText a
  | .iochgClk a => "IOCHG.CLK " ++ bitText a
  | .rxb perr byte => (if perr then "RXB.PE 0x" else "RXB 0x") ++ hexDigits 2 byte.toNat
  | .txrdy nack => if nack then "TXRDY.NACK" else "TXRDY"
  | .wthalf => "WTHALF"
  | .wtexp => "WTEXP"
  | .setatr bytes => if bytes.isEmpty then "SETATR" else "SETATR " ++ hexBytes bytes
  | .txqapp bytes => if bytes.isEmpty then "TXQAPP" else "TXQAPP " ++ hexBytes bytes
  | .gettxq => "GETTXQ"
  | .newtx => "NEWTX"
  | .repstat => "REPSTAT"
  | .etu rdr => "ETU " ++ bitText rdr
  | .gviol => "GVIOL"

/-- A direction mask by name (R91). -/
def maskText (mask : BitVec 2) : String :=
  if mask = 0 then "0" else if mask = 1 then "RX" else if mask = 2 then "TX" else "3"

/-- A command in a result listing (R91). -/
def commandText : Command → String
  | .setFd f d => "SET_FD " ++ toString f.toNat ++ " " ++ toString d.toNat
  | .updateWt ticks => "UPDATE_WT " ++ toString ticks.toNat
  | .resetWt => "RESET_WT"
  | .driveIo level => "DRIVE_IO " ++ bitText level
  | .txByte byte => "TX_BYTE " ++ hexDigits 2 byte.toNat
  | .enable mask => "ENABLE " ++ maskText mask
  | .waitTxIdle => "WAIT_TX_IDLE"
  | .requestIrq => "REQUEST_IRQ"
  | .rxDeliver byte => "RX_DELIVER " ++ hexDigits 2 byte.toNat
  | .status w1 w2 w3 =>
    "STATUS " ++ " ".intercalate [hexDigits 8 w1.toNat, hexDigits 8 w2.toNat, hexDigits 8 w3.toNat]

/-- The result of an event: its commands in order, then its return values; `(none)` for neither
(R91). -/
def resultText (cmds : List Command) (rets : List (BitVec 8)) : String :=
  if cmds.isEmpty && rets.isEmpty then "(none)"
  else "; ".intercalate (cmds.map commandText ++ rets.map (fun v => "ret " ++ toString v.toNat))

end Sys2Proof.Machine
end

