-- ==== Sys2Proof/Safety.lean ====
section
/-! DEFINITION. The terms the claims use: the table of event words (30_encoding.md R83), the structure of an
ATR (42_atr.md R161), the columns of the reset table (10_state.md R41), the parts of an etu tick
(44_framer.md R200), the invariants (R40 and the bounds of R12, R38, R61), the table of phase transitions
(41_protocol_fsm.md R130), runs of events, and the bytes that wait in the TX queue. -/

namespace Sys2Proof.Machine

/-! ### The table of event words (30_encoding.md R83) -/

/-- A row of R83: a word `w` selects it when `w and mask = pattern`. -/
structure TableRow where
  mnemonic : String
  pattern : EventWord
  mask : EventWord
  deriving DecidableEq, Repr

/-- The fifteen rows of R83. -/
def eventTable : List TableRow :=
  [⟨"INIT", 0x1000, 0xF000⟩, ⟨"IOCHG.VCC", 0x2000, 0xFFFE⟩, ⟨"IOCHG.RST", 0x2002, 0xFFFE⟩,
    ⟨"IOCHG.CLK", 0x2004, 0xFFFE⟩, ⟨"RXB", 0x3000, 0xFE00⟩, ⟨"TXRDY", 0x4000, 0xFFFE⟩,
    ⟨"WTHALF", 0x5000, 0xFFFF⟩, ⟨"WTEXP", 0x5001, 0xFFFF⟩, ⟨"SETATR", 0x6000, 0xFF00⟩,
    ⟨"TXQAPP", 0x7000, 0xF000⟩, ⟨"GETTXQ", 0x8000, 0xFFFF⟩, ⟨"NEWTX", 0x8001, 0xFFFF⟩,
    ⟨"REPSTAT", 0x8002, 0xFFFF⟩, ⟨"ETU", 0x9000, 0xFFFE⟩, ⟨"GVIOL", 0xA000, 0xFFFF⟩]

/-- Does a word select a row? -/
def TableRow.selects (r : TableRow) (w : EventWord) : Bool := w &&& r.mask == r.pattern

/-- The mnemonic of R83 of an event. -/
def mnemonicOf : Instr → String
  | .init _ _ _ _ _ => "INIT"
  | .iochgVcc _ => "IOCHG.VCC"
  | .iochgRst _ => "IOCHG.RST"
  | .iochgClk _ => "IOCHG.CLK"
  | .rxb _ _ => "RXB"
  | .txrdy _ => "TXRDY"
  | .wthalf => "WTHALF"
  | .wtexp => "WTEXP"
  | .setatr _ => "SETATR"
  | .txqapp _ => "TXQAPP"
  | .gettxq => "GETTXQ"
  | .newtx => "NEWTX"
  | .repstat => "REPSTAT"
  | .etu _ => "ETU"
  | .gviol => "GVIOL"

/-- The mnemonic of R83 of a header. -/
def headerMnemonic : Header → String
  | .single i => mnemonicOf i
  | .setatr _ => "SETATR"
  | .txqapp _ => "TXQAPP"

/-! ### The structure of an ATR (42_atr.md R161) -/

/-- A group of interface bytes TA, TB, TC, and the protocol number of the TD byte that announced it
(without meaning in the first group, which T0 announces). -/
structure AtrGroup where
  ta : Option Byte
  tb : Option Byte
  tc : Option Byte
  proto : BitVec 4
  deriving DecidableEq, Repr

/-- An ATR as R161 describes it. -/
structure AtrShape where
  /-- TS is `3F` rather than `3B` -/
  inverse : Bool
  first : AtrGroup
  more : List AtrGroup
  historical : List Byte
  deriving DecidableEq, Repr

/-- The Y nibble that announces a group: TD is there when another group follows. -/
def yNibble (g : AtrGroup) (more : List AtrGroup) : BitVec 4 :=
  BitVec.ofBool (!more.isEmpty) ++ BitVec.ofBool g.tc.isSome ++ BitVec.ofBool g.tb.isSome ++
    BitVec.ofBool g.ta.isSome

/-- The bytes of a chain of groups after the byte that announced it, in the order TA, TB, TC, TD. -/
def groupBytes : AtrGroup → List AtrGroup → List Byte
  | g, [] => g.ta.toList ++ g.tb.toList ++ g.tc.toList
  | g, h :: more =>
    g.ta.toList ++ g.tb.toList ++ g.tc.toList ++ [yNibble h more ++ h.proto] ++ groupBytes h more

/-- T0, the interface bytes and the historical bytes. -/
def AtrShape.body (a : AtrShape) : List Byte :=
  (yNibble a.first a.more ++ BitVec.ofNat 4 a.historical.length) ::
    (groupBytes a.first a.more ++ a.historical)

/-- Is a check byte due: does a TD byte name a protocol other than 0? -/
def AtrShape.tckDue (a : AtrShape) : Bool := a.more.any (fun g => g.proto != 0)

/-- The bytes of the ATR: TS, the body, and the check byte that makes the exclusive-or from T0 on zero. -/
def AtrShape.bytes (a : AtrShape) : List Byte :=
  (if a.inverse then 0x3F else 0x3B) :: a.body ++ if a.tckDue then [xorReduce a.body] else []

/-! ### Outputs of an event -/

/-- The state after more words have left on the command port. -/
def State.emits (s : State) (ws : List CmdWord) : State :=
  { s with ports := { s.ports with cmds := s.ports.cmds ++ ws } }

/-- The state after one more value has left on the return port. -/
def State.returns (s : State) (v : BitVec 8) : State :=
  { s with ports := { s.ports with rets := s.ports.rets ++ [v] } }

/-- UPDATE_WT (R87). -/
def updateWtWord (id : Ident) (ticks : BitVec 24) : CmdWord := cmdWord 2 id.tcChan ticks

/-- RESET_WT (R87). -/
def resetWtWord (id : Ident) : CmdWord := cmdWord 3 id.tcChan 0

/-- DRIVE_IO (R87): payload bit 0 is the level. -/
def driveIoWord (id : Ident) (level : Bool) : CmdWord := cmdWord 4 id.uartChan (if level then 1 else 0)

/-- TX_BYTE (R87). -/
def txByteWord (id : Ident) (b : Byte) : CmdWord := cmdWord 5 id.uartChan (b.setWidth 24)

/-- ENABLE (R87). -/
def enableWord (id : Ident) (mask : BitVec 2) : CmdWord := cmdWord 6 id.uartChan (mask.setWidth 24)

/-- WAIT_TX_IDLE (R87). -/
def waitTxIdleWord (id : Ident) : CmdWord := cmdWord 7 id.uartChan 0

/-- REQUEST_IRQ (R87). -/
def requestIrqWord (id : Ident) : CmdWord := cmdWord 8 id.uartChan 0

/-- RX_DELIVER (R87). -/
def rxDeliverWord (id : Ident) (b : Byte) : CmdWord := cmdWord 9 id.slot (b.setWidth 24)

/-- ENABLE(0), DRIVE_IO(1), UPDATE_WT(0) (R144). -/
def quiesceWords (id : Ident) : List CmdWord :=
  [enableWord id 0, driveIoWord id true, updateWtWord id 0]

/-- SET_FD with the values of a pair of indices (R87, R215). -/
def setFdWord (c : Config) (id : Ident) (fi di : BitVec 4) : CmdWord :=
  cmdWord 1 id.uartChan (fOf c fi ++ dOf c di)

/-- The four words of the STATUS record of a state (R256). -/
def statusWords (s : State) : List CmdWord :=
  [cmdWord 10 s.ident.slot 3, statusW1 s, statusW2 s, statusW3 s]

/-! ### The reset table (R41), one definition per column -/

/-- The line control of a quiet line: `DIR = 0`, `IO_DRV = 1`, `ERRSIG_CNT = 0`. -/
def quietLine : LineCtl := { dir := 0, ioDrv := true, errsigCnt := 0 }

/-- The framer after ENABLE(0): everything cleared, `THR` kept. -/
def quietFramer (f : FramerRegs) : FramerRegs :=
  { mode := .idle, slot := 0, shift := 0, thr := f.thr, thrValid := false, txrdyPend := false,
    nackSeen := false, holdoff := 0 }

/-- The registers that both the reset event and power-off clear. -/
def sessionCleared (s : State) : State :=
  { s with
    atr := { s.atr with idx := 0, done := false, ppsCapable := false }
    wt := { ticks := 0, cnt := 0, half := false, full := false }
    pps :=
      { req := [0, 0, 0, 0, 0, 0], reqLen := 0, expLen := 0, resp := [0, 0, 0, 0, 0, 0], respLen := 0,
        respIdx := 0 }
    seq := { retryCnt := 0, txLast := 0, txLastValid := false, txActive := false }
    err := { cause := .none, contractErr := false }
    txq := { frames := [], headOff := 0 }
    line := quietLine
    fr := quietFramer s.fr
    eng := { s.eng with rstHoldCnt := 0 } }

/-- All four indices at the defaults of the configuration. -/
def defaultIndices (c : Config) : FdRegs :=
  { fi := c.fiDefault, di := c.diDefault, nfi := c.fiDefault, ndi := c.diDefault }

/-- Column "after INIT", under the configuration `c`. Nothing of the state before is kept but the ports'
streams. -/
def afterInit (c : Config) (slot tc uart : BitVec 2) (inep irqep : BitVec 3) (p : Ports) : State where
  ident :=
    { slot := slot, tcChan := tc, uartChan := uart, usbInEp := inep, usbIrqEp := irqep,
      inited := true }
  phase := .poweredOff
  lines := { vcc := false, rst := false, clk := false }
  atr :=
    { buf := c.defaultAtr ++ List.replicate (c.atrMax - c.defaultAtr.length) 0
      len := BitVec.ofNat 6 c.defaultAtr.length, idx := 0, done := false, ppsCapable := false }
  patr := { buf := List.replicate c.atrMax 0, len := 0, pending := false }
  fd := defaultIndices c
  wt := { ticks := 0, cnt := 0, half := false, full := false }
  pps :=
    { req := [0, 0, 0, 0, 0, 0], reqLen := 0, expLen := 0, resp := [0, 0, 0, 0, 0, 0], respLen := 0,
      respIdx := 0 }
  seq := { retryCnt := 0, txLast := 0, txLastValid := false, txActive := false }
  err := { cause := .none, contractErr := false }
  txq := { frames := [], headOff := 0 }
  line := quietLine
  fr :=
    { mode := .idle, slot := 0, shift := 0, thr := 0, thrValid := false, txrdyPend := false,
      nackSeen := false, holdoff := 0 }
  eng := { rstHoldCnt := 0, engF := fOf c c.fiDefault, engD := dOf c c.diDefault }
  config := c
  ports := p

/-- Column "after reset event", the registers. -/
def resetRegs (s : State) : State :=
  { sessionCleared s with
    phase := .resetAsserted
    atr :=
      { buf := if s.patr.pending then s.patr.buf else s.atr.buf
        len := if s.patr.pending then s.patr.len else s.atr.len
        idx := 0, done := false, ppsCapable := false }
    patr := { s.patr with pending := false }
    fd := defaultIndices s.config
    eng :=
      { rstHoldCnt := 0
        engF := fOf s.config s.config.fiDefault
        engD := dOf s.config s.config.diDefault } }

/-- The reset event: its registers, and ENABLE 0, DRIVE_IO 1, UPDATE_WT 0, SET_FD of the default F and D,
STATUS. -/
def afterReset (s : State) : State :=
  (resetRegs s).emits
    (quiesceWords s.ident ++ [setFdWord s.config s.ident s.config.fiDefault s.config.diDefault] ++
      statusWords (resetRegs s))

/-- Column "after power-off", the registers. -/
def powerOffRegs (s : State) : State := { sessionCleared s with phase := .poweredOff }

/-- Power-off: its registers, and ENABLE 0, DRIVE_IO 1, UPDATE_WT 0, STATUS. -/
def afterPowerOff (s : State) : State :=
  (powerOffRegs s).emits (quiesceWords s.ident ++ statusWords (powerOffRegs s))

/-- Column "after halt(cause)", the registers. -/
def haltRegs (cause : ErrCause) (s : State) : State :=
  { s with
    phase := .errorHalt
    wt := { s.wt with ticks := 0, cnt := 0 }
    seq := { s.seq with txActive := false }
    err := { s.err with cause := cause }
    line := quietLine
    fr := quietFramer s.fr }

/-- The halt: its registers, and ENABLE 0, DRIVE_IO 1, UPDATE_WT 0, STATUS. -/
def afterHalt (cause : ErrCause) (s : State) : State :=
  (haltRegs cause s).emits (quiesceWords s.ident ++ statusWords (haltRegs cause s))

/-! ### Other results, written out -/

/-- A held ATR replaced, a pending one cancelled (R162 step 4). -/
def atrWritten (bytes : List Byte) (s : State) : State :=
  { s with
    atr :=
      { s.atr with
        buf := bytes ++ List.replicate (s.config.atrMax - bytes.length) 0
        len := BitVec.ofNat 6 bytes.length }
    patr := { s.patr with pending := false } }

/-- A frame added after the last one (R62). -/
def frameAppended (bytes : List Byte) (s : State) : State :=
  { s with txq := { s.txq with frames := s.txq.frames ++ [bytes] } }

/-- `CONTRACT_ERR <- 1` (R284). -/
def contractErrSet (s : State) : State := { s with err := { s.err with contractErr := true } }

/-- A restarted waiting-time count (R217). -/
def waitRestarted (s : State) : State := { s with wt := { s.wt with cnt := 0, half := false } }

/-- A byte handed to the framer (R138): remembered, held in `THR`, and the count restarted when armed. -/
def afterSend (b : Byte) (s : State) : State :=
  ({ s with
      seq := { s.seq with txLast := b, txLastValid := true, txActive := true }
      fr := { s.fr with thr := b, thrValid := true }
      wt := if s.wt.ticks = 0 then s.wt else { s.wt with cnt := 0, half := false } } : State).emits
    (txByteWord s.ident b :: if s.wt.ticks = 0 then [] else [resetWtWord s.ident])

/-- The line turned to transmit, and a notification asked for (R139). -/
def afterStart (s : State) : State :=
  ({ s with
      seq := { s.seq with txActive := true }
      line := { s.line with dir := 2 }
      fr := { s.fr with txrdyPend := true } } : State).emits
    [enableWord s.ident 2, requestIrqWord s.ident]

/-- An idle transmitter with data in the queue is started in `TPDU_EXCHANGE` (R139). -/
def afterKick (s : State) : State :=
  if s.phase = .tpduExchange ∧ s.txq.frames ≠ [] ∧ s.seq.txActive = false then afterStart s else s

/-- The byte that awaited acknowledgement is acknowledged (R133 step 3). -/
def acknowledged (s : State) : State :=
  { s with
    seq :=
      { s.seq with
        retryCnt := if s.seq.txLastValid then 0 else s.seq.retryCnt
        txLastValid := false } }

/-- Nothing to send: the line turned to receive, `ST_IDLE` returned (R133 step 5). -/
def afterTxIdle (s : State) : State :=
  (({ s with
      seq := { s.seq with txActive := false }
      line := { s.line with dir := 1 }
      fr := { s.fr with thrValid := false, txrdyPend := false, nackSeen := false } } : State).emits
    [enableWord s.ident 1]).returns 1

/-- The TX queue without its next byte (R63). -/
def queuePopped (q : TxQueue) : TxQueue :=
  match q.frames with
  | [] => q
  | f :: fs =>
    if q.headOff.toNat + 1 = f.length then { frames := fs, headOff := 0 }
    else { frames := f :: fs, headOff := q.headOff + 1 }

/-- The queue looked at in `TPDU_EXCHANGE`: its next byte sent, or nothing found (R133 steps 4, 5). -/
def afterQueue (s : State) : State :=
  match s.txq.frames with
  | [] => afterTxIdle s
  | f :: _ =>
    (afterSend (f.getD s.txq.headOff.toNat 0) { s with txq := queuePopped s.txq }).returns 0

/-- The registers at the start of ATR delivery (R113). -/
def deliveryRegs (s : State) : State :=
  { s with
    phase := .atrDelivery
    atr := { s.atr with idx := 0, done := false, ppsCapable := (s.atr.buf.getD 1 0).getLsbD 4 }
    seq := { s.seq with txActive := true }
    line := { s.line with dir := 2 }
    fr := { s.fr with holdoff := BitVec.ofNat 8 s.config.atrDelayEtu, txrdyPend := true } }

/-- Start of ATR delivery: ENABLE TX, REQUEST_IRQ, STATUS (R113). -/
def afterRelease (s : State) : State :=
  (deliveryRegs s).emits
    ([enableWord s.ident 2, requestIrqWord s.ident] ++ statusWords (deliveryRegs s))

/-- A new phase, reported (R255). -/
def enterPhase (p : Phase) (s : State) : State :=
  ({ s with phase := p } : State).emits (statusWords { s with phase := p })

/-- The waiting time armed with the value for the index in force (R188); a value of 0 would leave the two flags
as they are (R216). -/
def waitArmed (s : State) : State :=
  let v := wtValue s.config s.fd.di
  ({ s with
      wt :=
        { ticks := v, cnt := 0
          half := s.wt.half && v == 0
          full := s.wt.full && v == 0 } } : State).emits
    [updateWtWord s.ident v]

/-- The end of the ATR (R165), without the search that goes on after it. -/
def atrEnded (s : State) : State :=
  let a := waitArmed { s with atr := { s.atr with done := true } }
  if s.atr.ppsCapable then a else enterPhase .tpduExchange a

/-- The end of the PPS response (R187), without the search that goes on after it. -/
def ppsEnded (s : State) : State :=
  let w :=
    waitArmed
      (({ s with
          fd := { s.fd with fi := s.fd.nfi, di := s.fd.ndi }
          eng :=
            { s.eng with
              engF := fOf s.config s.fd.nfi, engD := dOf s.config s.fd.ndi } } : State).emits
        [waitTxIdleWord s.ident, setFdWord s.config s.ident s.fd.nfi s.fd.ndi])
  enterPhase .tpduExchange { w with pps := { w.pps with respLen := 0, respIdx := 0 } }

/-- The PPS registers after one more byte of the request (R184). -/
def ppsRequestWith (b : Byte) (p : PpsRegs) : PpsRegs :=
  { p with
    req := p.req.set p.reqLen.toNat b
    reqLen := p.reqLen + 1
    expLen :=
      if p.reqLen = 1 then
        3 + (b.extractLsb' 4 1).setWidth 3 + (b.extractLsb' 5 1).setWidth 3 +
          (b.extractLsb' 6 1).setWidth 3
      else p.expLen }

/-- The request is complete (R184). -/
def ppsRequestComplete (p : PpsRegs) : Bool := decide (2 ≤ p.reqLen.toNat) && p.reqLen == p.expLen

/-- The exclusive-or of the request's bytes is not zero, or its protocol is not T = 0 (R185). -/
def ppsBad (p : PpsRegs) : Bool :=
  (p.req.take p.reqLen.toNat).foldl (· ^^^ ·) 0 != 0 || (p.req.getD 1 0).setWidth 4 != (0 : BitVec 4)

/-- The proposed index of F: the high nibble of PPS1, or the default when PPS1 is absent (R183, R185). -/
def ppsFi (c : Config) (p : PpsRegs) : BitVec 4 :=
  if (p.req.getD 1 0).getLsbD 4 then (p.req.getD 2 0).extractLsb' 4 4 else c.fiDefault

/-- The proposed index of D: the low nibble of PPS1, or the default (R183, R185). -/
def ppsDi (c : Config) (p : PpsRegs) : BitVec 4 :=
  if (p.req.getD 1 0).getLsbD 4 then (p.req.getD 2 0).setWidth 4 else c.diDefault

/-- An index is reserved, or the configuration withdraws the pair (R182). -/
def fdRefused (c : Config) (fi di : BitVec 4) : Bool :=
  decide (fOf c fi = 0 ∨ dOf c di = 0 ∨ (fi, di) ∈ c.fdWithdrawn)

/-- An accepted request: its indices held, the response owed, the line turned (R185). -/
def afterPpsAccept (fi di : BitVec 4) (s : State) : State :=
  afterStart
    { s with
      fd := { s.fd with nfi := fi, ndi := di }
      pps := { s.pps with resp := s.pps.req, respLen := s.pps.reqLen, respIdx := 0 } }

/-- The evaluation of a complete request (R185). -/
def afterPpsEval (s : State) : State :=
  let fi := ppsFi s.config s.pps
  let di := ppsDi s.config s.pps
  if ppsBad s.pps then afterHalt .ppsMalformed s
  else if fdRefused s.config fi di then afterHalt .fdUnsupported s
  else afterPpsAccept fi di s

/-- A byte taken in a receiving state, before it is looked at: RESET_WT (R132). -/
def afterRxRestart (s : State) : State := (waitRestarted s).emits [resetWtWord s.ident]

/-- A good byte clears the retry count (R132). -/
def afterRxGood (s : State) : State :=
  afterRxRestart { s with seq := { s.seq with retryCnt := 0 } }

/-- The levels a transmitted character puts on the line, slot by slot: start bit, data bits least
significant first, even parity, then the released guard time (R203). -/
def lineLevel (b : Byte) (slot : Nat) : Bool :=
  if slot = 0 then false
  else if slot ≤ 8 then b.getLsbD (slot - 1)
  else if slot = 9 then xorBits b
  else true

/-! ### The parts of an etu tick (R200), written out -/

/-- The state an event gives, for an event performed by another rule (R10, R213). -/
def performed (i : Instr) (s : State) : State :=
  match exec i s with
  | .next t => t
  | .fault _ | .refused _ => s

/-- The error-signal counter one tick on (R235). -/
def errsigTick (l : LineCtl) : LineCtl :=
  if l.errsigCnt = 0 then l
  else { l with errsigCnt := l.errsigCnt - 1, ioDrv := l.ioDrv || l.errsigCnt == 1 }

/-- A counter that stops at 0 one tick on (R233). -/
def holdoffTick (h : BitVec 8) : BitVec 8 := if h = 0 then 0 else h - 1

/-- Steps 1 to 3: the hold-off (R233), the error signal, released with DRIVE_IO(1) when it ends (R235), the
reset-hold count (R234). -/
def tickStart (s : State) : State :=
  ({ s with
      fr := { s.fr with holdoff := holdoffTick s.fr.holdoff }
      line := errsigTick s.line
      eng :=
        { s.eng with
          rstHoldCnt :=
            if s.phase = .resetAsserted ∧ s.lines.rst = true ∧ s.eng.rstHoldCnt ≠ 255 then
              s.eng.rstHoldCnt + 1
            else s.eng.rstHoldCnt } } : State).emits
    (if s.line.errsigCnt = 1 then [driveIoWord s.ident true] else [])

/-- The transmitter can be served: enabled, no character in the framer, no hold-off (R207, R208). -/
def transmitterFree (s : State) : Bool :=
  decide (s.line.dir.getLsbD 1 = true ∧ s.fr.mode = .idle ∧ s.fr.holdoff = 0)

/-- Step 5, load: a held character goes into the shifter (R208). -/
def afterLoad (s : State) : State :=
  if s.fr.thrValid = true ∧ transmitterFree s = true then
    { s with
      fr :=
        { s.fr with shift := charFrame s.fr.thr, thrValid := false, mode := .tx, slot := 0 } }
  else s

/-- Step 5: an owed `TXRDY` is performed with the error flag seen (R207), then a held byte is loaded. -/
def serviced (s : State) : State :=
  if s.fr.txrdyPend = true ∧ transmitterFree s = true then
    afterLoad
      (performed (.txrdy s.fr.nackSeen)
        { s with fr := { s.fr with txrdyPend := false, nackSeen := false } })
  else afterLoad s

/-- Step 6, while the waiting time is armed: one more tick, saturating; at half, once, `WT_HALF` and STATUS; at
the whole, `WT_FULL` and the halt (R236, R230, R231). -/
def waitTick (s : State) : State :=
  if s.wt.ticks = 0 then s
  else
    let c : State :=
      { s with
        wt := { s.wt with cnt := if s.wt.cnt = 0xFFFFFF then s.wt.cnt else s.wt.cnt + 1 } }
    let h : State := { c with wt := { c.wt with half := true } }
    let n : State :=
      if s.wt.half = false ∧ s.wt.ticks.toNat ≤ 2 * c.wt.cnt.toNat then h.emits (statusWords h) else c
    if s.wt.ticks.toNat ≤ c.wt.cnt.toNat then
      afterHalt .wtExpired { n with wt := { n.wt with full := true } }
    else n

/-- `n` ticks in which nothing but the waiting time moves. -/
def waitTicks : Nat → State → State
  | 0, s => s
  | n + 1, s => waitTick (waitTicks n s)

/-- The waiting time does not expire within `n` ticks: it is not armed, or the count stays below it. -/
def noExpiry (n : Nat) (s : State) : Prop := s.wt.ticks = 0 ∨ s.wt.cnt.toNat + n < s.wt.ticks.toNat

/-- The registers no rule reads: the USB endpoints (R21) and the divider's copies (R189), blanked. -/
def inertBlanked (s : State) : State :=
  { s with
    ident := { s.ident with usbInEp := 0, usbIrqEp := 0 }
    eng := { s.eng with engF := 0, engD := 0 } }

/-- The machine `s` after a reaction of its registers: the configuration and the event port as they are, the
outputs added to the trace. -/
def withReaction (s : State) (r : Reaction) : State :=
  r.regs.machine s.config
    { s.ports with cmds := s.ports.cmds ++ r.cmds, rets := s.ports.rets ++ r.rets }

/-- Apply a function to what an outcome gives. -/
def mapNext {α : Type} (f : α → State) (o : Host.Outcome α Fault Refusal) :
    Host.Outcome State Fault Refusal :=
  match o with
  | .next s => .next (f s)
  | .fault r => .fault r
  | .refused r => .refused r

/-- The three exchange phases and their receiving parts (R131). -/
def Receives (s : State) : Prop :=
  (s.phase = .atrDelivery ∧ s.atr.done = true) ∨ (s.phase = .ppsNegotiation ∧ s.pps.respLen = 0) ∨
    s.phase = .tpduExchange

/-! ### Invariants -/

/-- The invariants of R40, by letter; (a) holds by the type `Phase`. -/
structure Documented (s : State) : Prop where
  /-- (b) the held ATR is valid, and no longer than `ATR_MAX` -/
  heldAtr : s.atr.len.toNat ≤ s.config.atrMax ∧ atrValid s.config s.atr.buf s.atr.len.toNat = true
  /-- (b) a pending ATR is valid -/
  pendingAtr : s.patr.pending = true → atrValid s.config s.patr.buf s.patr.len.toNat = true
  /-- (c) the divider agrees with the indices -/
  divider : s.eng.engF = fOf s.config s.fd.fi ∧ s.eng.engD = dOf s.config s.fd.di
  /-- (d) when the waiting time is armed -/
  armed :
    s.wt.ticks ≠ 0 ↔
      (s.phase = .atrDelivery ∧ s.atr.done = true) ∨ s.phase = .ppsNegotiation ∨
        s.phase = .tpduExchange
  /-- (e) exchange phases have the card active -/
  active : exchangePhase s.phase = true → s.lines.vcc = true ∧ s.lines.rst = false
  /-- (e) reset and halt have power -/
  powered : s.phase = .resetAsserted ∨ s.phase = .errorHalt → s.lines.vcc = true
  /-- (e) a powered-off card is not in reset with power -/
  unpowered : s.phase = .poweredOff → ¬ (s.lines.vcc = true ∧ s.lines.rst = true)
  /-- (f) and (j), the direction by phase and `TX_ACTIVE` -/
  direction :
    s.line.dir = if exchangePhase s.phase then (if s.seq.txActive then 2 else 1) else 0
  /-- (j) `TX_ACTIVE = 1` exactly when `DIR = 2` -/
  activeTx : s.seq.txActive = true ↔ s.line.dir = 2
  /-- (j) a full holding register needs an enabled transmitter -/
  holding : s.fr.thrValid = true → s.line.dir = 2
  /-- (g) the delivery index -/
  deliveryIdx : midDelivery s = true → s.atr.idx.toNat ≤ s.atr.len.toNat
  /-- (h) when the ATR offered PPS -/
  ppsOffered :
    s.phase = .ppsNegotiation ∨ (s.phase = .atrDelivery ∧ s.atr.done = true) →
      s.atr.ppsCapable = true
  /-- (i) the head offset lies in the head frame, and is 0 when the queue is empty -/
  headOff :
    if s.txq.frames = [] then s.txq.headOff = 0
    else s.txq.headOff.toNat < (s.txq.frames.headD []).length

/-- The bounds the rules keep beside R40: buffers of fixed length with zeros above the length in use (R61,
R162), the queue's capacity (R31), supported F/D (R182), the index registers and counters (R12), and a
quiet line outside the exchange phases (R38, R200). -/
structure Bounded (s : State) : Prop where
  /-- `ATR` has `ATR_MAX` bytes, zero above `ATR_LEN` -/
  atrBuf :
    s.atr.buf.length = s.config.atrMax ∧ ∀ i, s.atr.len.toNat ≤ i → rdBuf s.atr.buf i = 0
  /-- `PATR` has `ATR_MAX` bytes, zero above `PATR_LEN` -/
  patrBuf :
    s.patr.buf.length = s.config.atrMax ∧ ∀ i, s.patr.len.toNat ≤ i → rdBuf s.patr.buf i = 0
  /-- the PPS buffers have 6 bytes -/
  ppsBufs : s.pps.req.length = 6 ∧ s.pps.resp.length = 6
  /-- F/D in force and F/D selected are supported pairs -/
  supported : fdSupported s.config s.fd.fi s.fd.di = true ∧
      fdSupported s.config s.fd.nfi s.fd.ndi = true
  /-- the lengths and the index of the PPS exchange -/
  ppsLens :
    s.pps.reqLen.toNat ≤ 6 ∧ s.pps.respLen.toNat ≤ 6 ∧ s.pps.respIdx.toNat ≤ s.pps.respLen.toNat
  /-- a request being collected is not complete -/
  collecting :
    s.phase = .ppsNegotiation → s.pps.respLen = 0 →
      (s.pps.reqLen = 1 ∧ s.pps.expLen = 0) ∨
        (2 ≤ s.pps.reqLen.toNat ∧ s.pps.reqLen.toNat < s.pps.expLen.toNat ∧ s.pps.expLen.toNat ≤ 6)
  /-- a response is owed exactly while the transmitter runs in `PPS_NEGOTIATION` (R186) -/
  responding : s.phase = .ppsNegotiation → (s.seq.txActive = true ↔ s.pps.respLen ≠ 0)
  /-- there is no response outside `PPS_NEGOTIATION` but in the halt -/
  noResponse : s.phase ≠ .ppsNegotiation → s.phase ≠ .errorHalt → s.pps.respLen = 0
  /-- the transmitter runs in `ATR_DELIVERY` exactly until the ATR is done -/
  delivering : s.phase = .atrDelivery → s.seq.txActive = !s.atr.done
  /-- `RETRY_CNT` reaches the budget only in the halt -/
  retry :
    s.seq.retryCnt.toNat ≤ s.config.parityRetryBudget ∧
      (s.phase ≠ .errorHalt → s.seq.retryCnt.toNat < s.config.parityRetryBudget)
  /-- `ERR_CAUSE` names a cause exactly in the halt -/
  cause : s.err.cause ≠ .none ↔ s.phase = .errorHalt
  /-- `WT_CNT` is below `WT_TICKS` while armed and 0 otherwise -/
  waiting : if s.wt.ticks = 0 then s.wt.cnt = 0 else s.wt.cnt.toNat < s.wt.ticks.toNat
  /-- an armed waiting time has the value for the index in force (R188) -/
  waitValue : s.wt.ticks ≠ 0 → s.wt.ticks = wtValue s.config s.fd.di
  /-- `WT_FULL` is seen only in the halt it caused -/
  expired : s.wt.full = true → s.phase = .errorHalt ∧ s.err.cause = .wtExpired
  /-- the slot number by framer mode -/
  slots :
    match s.fr.mode with
    | .idle => s.fr.slot = 0
    | .tx => s.fr.slot.toNat ≤ 12 + s.config.extraGuardN
    | .rx => 1 ≤ s.fr.slot.toNat ∧ s.fr.slot.toNat ≤ 11
  /-- the line is pulled low exactly while an error signal is being counted (R135, R235) -/
  signalling :
    (s.line.ioDrv = true ↔ s.line.errsigCnt = 0) ∧
      s.line.errsigCnt.toNat ≤ s.config.errSignalEtu
  /-- outside the exchange phases line and framer are quiet -/
  quiet : exchangePhase s.phase = false → s.line = quietLine ∧ s.fr = quietFramer s.fr
  /-- in the halt RST is released (R288) -/
  haltReleased : s.phase = .errorHalt → s.lines.rst = false
  /-- the queue's capacity -/
  capacity :
    s.txq.frames.length ≤ s.config.txqFramesMax ∧
      ∀ f ∈ s.txq.frames, 1 ≤ f.length ∧ f.length ≤ s.config.txqFrameMax
  /-- the configuration is a legal one (R7, 93 U8) -/
  config : configLegal s.config = true

/-- The invariant of the engine. -/
structure Inv (s : State) : Prop where
  documented : Documented s
  bounded : Bounded s

/-! ### Phase transitions (R130) -/

/-- One parity failure more uses up the retry budget (R135, R136). -/
def budgetUsedUp (s : State) : Prop := s.config.parityRetryBudget ≤ s.seq.retryCnt.toNat + 1

/-- The byte completes the PPS request, and the request is malformed or asks an unsupported pair (R185). -/
def ppsFails (b : Byte) (s : State) : Prop :=
  let p := ppsRequestWith b s.pps
  ppsRequestComplete p = true ∧
    (ppsBad p = true ∨ fdRefused s.config (ppsFi s.config p) (ppsDi s.config p) = true)

/-- The rows of R130's table: the event and condition on which an event other than `ETU`, applied to `s`, moves
the engine from the phase of `s` to `p`. -/
def transitionRow (i : Instr) (s : State) (p : Phase) : Prop :=
  match s.phase, p with
  | _, .resetAsserted =>
    (i = .iochgRst true ∧ s.lines.rst = false ∧ s.lines.vcc = true) ∨
      (i = .iochgVcc true ∧ s.lines.vcc = false ∧ s.lines.rst = true)
  | _, .poweredOff => i = .iochgVcc false ∧ s.lines.vcc = true
  | .resetAsserted, .atrDelivery =>
    i = .iochgRst false ∧ s.lines.rst = true ∧
      s.config.resetHoldMinEtu ≤ s.eng.rstHoldCnt.toNat ∧
      atrValid s.config s.atr.buf s.atr.len.toNat = true
  | .resetAsserted, .errorHalt =>
    i = .iochgRst false ∧ s.lines.rst = true ∧
      s.config.resetHoldMinEtu ≤ s.eng.rstHoldCnt.toNat ∧
      atrValid s.config s.atr.buf s.atr.len.toNat = false
  | .atrDelivery, .tpduExchange =>
    ((∃ n, i = .txrdy n ∧ (s.seq.txLastValid && n) = false) ∧ s.atr.done = false ∧
        s.atr.idx = s.atr.len ∧ s.atr.ppsCapable = false) ∨
      ((∃ b, b ≠ 0xFF ∧ i = .rxb false b) ∧ s.atr.done = true ∧ s.atr.ppsCapable = true)
  | .atrDelivery, .ppsNegotiation =>
    i = .rxb false 0xFF ∧ s.atr.done = true ∧ s.atr.ppsCapable = true
  | .ppsNegotiation, .tpduExchange =>
    (∃ n, i = .txrdy n ∧ (s.seq.txLastValid && n) = false) ∧ s.pps.respLen ≠ 0 ∧
      s.pps.respIdx = s.pps.respLen
  | .atrDelivery, .errorHalt | .ppsNegotiation, .errorHalt | .tpduExchange, .errorHalt =>
    ((∃ b, i = .rxb true b) ∧ Receives s ∧ budgetUsedUp s) ∨
      (i = .txrdy true ∧ s.seq.txActive = true ∧ s.seq.txLastValid = true ∧ budgetUsedUp s) ∨
      (s.phase = .ppsNegotiation ∧ s.pps.respLen = 0 ∧ ∃ b, i = .rxb false b ∧ ppsFails b s) ∨
      (i = .wtexp ∧ s.wt.ticks ≠ 0) ∨ i = .gviol
  | .poweredOff, .atrDelivery | .poweredOff, .ppsNegotiation | .poweredOff, .tpduExchange
  | .poweredOff, .errorHalt | .resetAsserted, .ppsNegotiation | .resetAsserted, .tpduExchange
  | .ppsNegotiation, .atrDelivery | .tpduExchange, .atrDelivery | .tpduExchange, .ppsNegotiation
  | .errorHalt, .atrDelivery | .errorHalt, .ppsNegotiation | .errorHalt, .tpduExchange => False
  | .atrDelivery, .atrDelivery | .ppsNegotiation, .ppsNegotiation | .tpduExchange, .tpduExchange
  | .errorHalt, .errorHalt => True

/-- The core events that an `ETU` with the reader's level `rdr` performs, and when (R205, R207, R236): the byte
assembled at the end of slot 9; a guard violation in slot 10 or 11; the notification owed, with the error flag
seen, once the transmitter is free in this tick; the expiry of the waiting time. -/
def performedByEtu (rdr : Bool) (s : State) (e : Instr) : Prop :=
  s.lines.clk = true ∧
    ((s.fr.mode = .rx ∧ s.fr.slot = 9 ∧
        e =
          .rxb (charParityErr (setSlot s.fr.shift 9 (rdr && s.line.ioDrv)))
            (charByte (setSlot s.fr.shift 9 (rdr && s.line.ioDrv)))) ∨
      (s.fr.mode = .rx ∧ (s.fr.slot = 10 ∨ s.fr.slot = 11) ∧ rdr = false ∧ s.line.ioDrv = true ∧
        e = .gviol) ∨
      (s.line.dir = 2 ∧ s.fr.holdoff.toNat ≤ 1 ∧ e = .txrdy s.fr.nackSeen ∧
        ((s.fr.txrdyPend = true ∧ (s.fr.mode = .idle ∨ (s.fr.mode = .rx ∧ s.fr.slot = 11))) ∨
          (s.fr.mode = .tx ∧
            11 + s.config.extraGuardN + s.fr.nackSeen.toNat ≤ s.fr.slot.toNat))) ∨
      (s.wt.ticks ≠ 0 ∧ s.wt.ticks.toNat ≤ s.wt.cnt.toNat + 1 ∧ e = .wtexp))

/-- May the event `i`, applied to `s`, move the engine to the phase `p`? By a row of the table, or as an `ETU`
that performs the event of a row (R213). -/
def transitionAllowed (i : Instr) (s : State) (p : Phase) : Prop :=
  transitionRow i s p ∨ ∃ rdr e, i = .etu rdr ∧ performedByEtu rdr s e ∧ transitionRow e s p

/-! ### Runs -/

/-- The events of a list applied one after another (20_memory.md R66). -/
def runEvents : List Instr → State → Host.Outcome State Fault Refusal
  | [], s => .next s
  | i :: is, s =>
    match exec i s with
    | .next t => runEvents is t
    | .fault r => .fault r
    | .refused r => .refused r

/-- The bytes that wait in the TX queue, in the order they will leave (R63, R72). -/
def waitingBytes (q : TxQueue) : List Byte := q.frames.flatten.drop q.headOff.toNat

end Sys2Proof.Machine
end

