-- ==== Sys2Proof/Certificates/Slice0/Obligations.lean ====
section
/-! DEFINITION. The statements for the provers. A result is written out as a state: the registers an event
changes, with the words it puts on the command port (`emits`) and the value on the return port
(`returns`); whatever is not named is unchanged, which is the frame of the event. The parameters of R7 are
those of the state's own configuration, whatever they are. -/

section

open Sys2Proof Sys2Proof.Machine

/-! ### Encoding -/

/-- R82, R83, R84: every event that has an encoding is decoded from its own words, whatever follows. -/
def Obligations.DecodeOfEncodeIsTheEvent : Prop :=
  ∀ (i : Instr) (rest : List EventWord), i.wellFormed = true → decode (encode i ++ rest) = .instr i rest

/-- R82, R83, R84: a decoded event is well formed, and the words consumed are exactly its encoding. -/
def Obligations.DecodedWordsAreTheEncoding : Prop :=
  ∀ (ws rest : List EventWord) (i : Instr),
    decode ws = .instr i rest → i.wellFormed = true ∧ ws = encode i ++ rest

/-- R83: the decoder selects the row of the table of event words, and the rows are disjoint. -/
def Obligations.DecoderFollowsTheEventTable : Prop :=
  (∀ w : EventWord,
      (decodeHeader w).map headerMnemonic =
        (eventTable.find? (fun r => r.selects w)).map TableRow.mnemonic) ∧
    eventTable.Pairwise (fun r q => ∀ w : EventWord, ¬ (r.selects w = true ∧ q.selects w = true))

/-- R85: the illegal words, their effect after `INIT`, and the refusal of every word but an `INIT` before
it. -/
def Obligations.IllegalWordsAreAnsweredNotObeyed : Prop :=
  (∀ w : EventWord,
      decodeHeader w = none ↔
        (w.op = 0 ∨ 0xB ≤ w.op.toNat) ∨ (w.op = 2 ∧ (w.extractLsb' 3 9 ≠ 0 ∨ w.sig = 3)) ∨
          (w.op = 3 ∧ w.extractLsb' 9 3 ≠ 0) ∨ (w.op = 4 ∧ w.extractLsb' 1 11 ≠ 0) ∨
          (w.op = 5 ∧ 1 < w.low12.toNat) ∨ (w.op = 6 ∧ w.extractLsb' 8 4 ≠ 0) ∨
          (w.op = 8 ∧ 2 < w.low12.toNat) ∨ (w.op = 9 ∧ w.extractLsb' 1 11 ≠ 0) ∨
          (w.op = 10 ∧ w.low12 ≠ 0)) ∧
    (∀ (s : State) (w : EventWord) (rest : List EventWord),
      decodeHeader w = none → s.ports.events = w :: rest →
        step s =
          if s.ident.inited then
            .next
              ((contractErrSet { s with ports := { s.ports with events := rest } }).returns 15)
          else .refused .beforeInit) ∧
    ∀ (s : State) (w : EventWord) (rest : List EventWord),
      s.ident.inited = false → s.ports.events = w :: rest → w.op ≠ 1 → ∃ r, step s = .refused r

/-- R83, R89: a few words written out from the encoding. -/
def Obligations.SampleWordsDecode : Prop :=
  decode [0x1013] = .instr (.init 0 0 0 2 3) [] ∧
    decode [0x2003, 0x2001] = .instr (.iochgRst true) [0x2001] ∧
    decode [0x31A0] = .instr (.rxb true 0xA0) [] ∧
    decode [0x6004, 0x003B, 0x0002, 0x0014, 0x0050] =
      .instr (.setatr [0x3B, 0x02, 0x14, 0x50]) [] ∧
    decode [0x7001, 0x0060, 0x8001] = .instr (.txqapp [0x60]) [0x8001] ∧
    decode [0x9001] = .instr (.etu true) []

/-- R86, R87: from the words of a command its name, its operands and its channel can be read back. -/
def Obligations.CommandWordsCarryTheCommand : Prop :=
  ∀ (id : Ident) (c : Command) (rest : List CmdWord),
    readCommand (commandWords id c ++ rest) =
      some
        (c,
          (match c with
          | .updateWt _ | .resetWt => id.tcChan
          | .rxDeliver _ | .status _ _ _ => id.slot
          | .setFd _ _ | .driveIo _ | .txByte _ | .enable _ | .waitTxIdle | .requestIrq =>
            id.uartChan).setWidth 4,
          rest)

/-! ### Steps -/

/-- R11, R66: the event at the head of the event port is applied, and its words are taken. -/
def Obligations.StepRunsTheDecodedEvent : Prop :=
  ∀ (s : State) (i : Instr) (rest : List EventWord),
    decode s.ports.events = .instr i rest →
      step s = exec i { s with ports := { s.ports with events := rest } }

/-- R22, R75, R84: no event, no transition; a malformed stream is refused (how, log entry 7). -/
def Obligations.StepWithoutAWholeEvent : Prop :=
  (∀ s : State, s.ports.events = [] → step s = .next s) ∧
    (∀ (s : State) (w : EventWord) (ws : List EventWord) (n : Nat),
      s.ports.events = w :: ws →
        decodeHeader w = some (.setatr n) ∨ decodeHeader w = some (.txqapp n) →
          ((∃ d ∈ ws.take n, d.high8 ≠ 0) → step s = .refused .malformedDataWord) ∧
            ((∀ d ∈ ws.take n, d.high8 = 0) → ws.length < n → step s = .refused .dataWordsOwed))

/-- R20, R115: before `INIT` only `INIT` has a meaning. -/
def Obligations.NothingButInitBeforeInit : Prop :=
  ∀ (i : Instr) (s : State), s.ident.inited = false →
    (∀ slot tc uart inep irqep, i ≠ .init slot tc uart inep irqep) →
      exec i s = .refused .beforeInit

/-! ### INIT -/

/-- R110, R41, U8: `INIT` on an instance that does not exist yet. A configuration out of range is refused (the
ranges are those of log entry 15). -/
def Obligations.InitCreatesTheHandle : Prop :=
  ∀ (slot tc uart : BitVec 2) (inep irqep : BitVec 3) (s : State), s.ident.inited = false →
    (configInRange s.config = true →
        exec (.init slot tc uart inep irqep) s =
          .next
            (((afterInit s.config slot tc uart inep irqep s.ports).emits
                [cmdWord 6 uart 0, cmdWord 4 uart 1, cmdWord 2 tc 0,
                  cmdWord 1 uart
                    (fOf s.config s.config.fiDefault ++ dOf s.config s.config.diDefault)]).returns
              (slot.setWidth 8))) ∧
      (configInRange s.config = false →
        exec (.init slot tc uart inep irqep) s = .refused .illegalConfig)

/-- The model's choice where U2 allows two treatments (log entry 5): a second `INIT` is answered
`ERR_ILLEGAL`, sets `CONTRACT_ERR` and changes nothing else. -/
def Obligations.SecondInitIsAnsweredIllegal : Prop :=
  ∀ (slot tc uart : BitVec 2) (inep irqep : BitVec 3) (s : State), s.ident.inited = true →
    exec (.init slot tc uart inep irqep) s = .next ((contractErrSet s).returns 15)

/-! ### The signal monitor and the resets -/

/-- R112, R140, R141: a rise of VCC with RST asserted is a reset event, a fall is power-off, a rise with RST
released and a repeated level write the latch only. -/
def Obligations.VccChangeResetsOrPowersOff : Prop :=
  ∀ (active : Bool) (s : State), s.ident.inited = true →
    exec (.iochgVcc active) s =
      .next
        (let l : State := { s with lines := { s.lines with vcc := active } }
        match s.lines.vcc, active with
        | false, true => if s.lines.rst then afterReset l else l
        | true, false => afterPowerOff l
        | false, false => s
        | true, true => s)

/-- R113, R140, R142: an assertion of RST under power is a reset event; a release after the hold time starts
the delivery of a valid ATR and halts on a malformed one; anything else writes the latch only. -/
def Obligations.RstChangeResetsOrStartsTheAtr : Prop :=
  ∀ (active : Bool) (s : State), s.ident.inited = true →
    exec (.iochgRst active) s =
      .next
        (let l : State := { s with lines := { s.lines with rst := active } }
        match s.lines.rst, active with
        | false, true => if s.lines.vcc then afterReset l else l
        | true, false =>
          if s.phase = .resetAsserted ∧ s.config.resetHoldMinEtu ≤ s.eng.rstHoldCnt.toNat then
            if atrValid s.config s.atr.buf s.atr.len.toNat then afterRelease l
            else afterHalt .atrMalformed l
          else l
        | false, false => s
        | true, true => s)

/-- R114: `IOCHG.CLK` writes its latch and nothing else; while the clock stands still so does an `ETU`. -/
def Obligations.ClkChangeWritesItsLatch : Prop :=
  ∀ (active : Bool) (s : State), s.ident.inited = true →
    let t : State := { s with lines := { s.lines with clk := active } }
    encode (.iochgClk active) = [0x2004 ||| (BitVec.ofBool active).setWidth 16] ∧
      exec (.iochgClk active) s = .next t ∧
      (active = false → ∀ rdr, exec (.etu rdr) t = .next t)

/-! ### The ATR -/

/-- R160, R161: the validity walk accepts exactly the byte strings of at most `ATR_MAX` bytes that are built
as R161 describes an ATR. -/
def Obligations.ValidAtrsAreTheWellBuiltOnes : Prop :=
  ∀ (c : Config) (b : List Byte),
    atrValid c b b.length = true ↔
      ∃ a : AtrShape, a.historical.length ≤ 15 ∧ a.bytes.length ≤ c.atrMax ∧ a.bytes = b

/-- R162: the length test, the validity test, the deferral during a delivery, the direct write. -/
def Obligations.SetatrRejectsDefersOrWrites : Prop :=
  ∀ (bytes : List Byte) (s : State), s.ident.inited = true →
    exec (.setatr bytes) s =
      .next
        (if s.config.atrMax < bytes.length then s.returns 9
        else if atrValid s.config bytes bytes.length = false then s.returns 10
        else if s.phase = .atrDelivery ∧ s.atr.done = false then
          ({ s with
              patr :=
                { buf := bytes ++ List.replicate (s.config.atrMax - bytes.length) 0
                  len := BitVec.ofNat 6 bytes.length, pending := true } } : State).returns 2
        else
          (atrWritten bytes s).returns 0)

/-- R73: whatever happens while a delivery is in flight, as long as it stays in flight the bytes being
delivered stay the same. -/
def Obligations.AtrStandsStillDuringItsDelivery : Prop :=
  ∀ (i : Instr) (s t : State), exec i s = .next t →
    s.phase = .atrDelivery → s.atr.done = false → t.phase = .atrDelivery → t.atr.done = false →
      s.ident.inited = true → t.atr.buf = s.atr.buf ∧ t.atr.len = s.atr.len

/-- R164: from the start of a delivery, as many `TXRDY` as the ATR has bytes hand over exactly those bytes, in
order, each with the status `ST_OK`. -/
def Obligations.AtrBytesLeaveInOrder : Prop :=
  ∀ s : State, Inv s → s.ident.inited = true → s.phase = .atrDelivery → s.atr.done = false →
    s.atr.idx = 0 →
      ∃ t : State,
        runEvents (List.replicate s.atr.len.toNat (.txrdy false)) s = .next t ∧
          t.ports.cmds =
            s.ports.cmds ++ (s.atr.buf.take s.atr.len.toNat).map (txByteWord s.ident) ∧
          t.ports.rets = s.ports.rets ++ List.replicate s.atr.len.toNat 0 ∧
          t.phase = .atrDelivery ∧ t.atr = { s.atr with idx := s.atr.len }

/-! ### RXB -/

/-- R132, R131: a byte outside the receiving states is dropped and recorded. -/
def Obligations.ByteOutOfPlaceIsAContractError : Prop :=
  ∀ (perr : Bool) (b : Byte) (s : State), s.ident.inited = true → ¬ Receives s →
    exec (.rxb perr b) s = .next (contractErrSet s)

/-- R132, R254: a good byte in `TPDU_EXCHANGE` restarts the waiting time, clears the retry count and is
delivered, also while the engine transmits. -/
def Obligations.GoodByteIsDelivered : Prop :=
  ∀ (b : Byte) (s : State), s.ident.inited = true → s.phase = .tpduExchange →
    exec (.rxb false b) s = .next ((afterRxGood s).emits [rxDeliverWord s.ident b])

/-- R135: a parity error is counted; the one that uses up the budget halts, an earlier one pulls the line
low. -/
def Obligations.ParityErrorSignalsOrHalts : Prop :=
  ∀ (b : Byte) (s : State), s.ident.inited = true → Receives s →
    exec (.rxb true b) s =
      .next
        (let r := afterRxRestart { s with seq := { s.seq with retryCnt := s.seq.retryCnt + 1 } }
        if s.config.parityRetryBudget ≤ s.seq.retryCnt.toNat + 1 then afterHalt .parityRetry r
        else
          ({ r with
              line :=
                { r.line with
                  ioDrv := false
                  errsigCnt := BitVec.ofNat 2 s.config.errSignalEtu } } : State).emits
            [driveIoWord s.ident false])

/-- R134: after an ATR that offers PPS the first byte decides between a PPS and a command. -/
def Obligations.FirstByteDecidesPpsOrCommand : Prop :=
  ∀ (b : Byte) (s : State), s.ident.inited = true → s.phase = .atrDelivery → s.atr.done = true →
    exec (.rxb false b) s =
      .next
        (let g := afterRxGood s
        if b = 0xFF then
          enterPhase .ppsNegotiation
            { g with pps := { g.pps with req := g.pps.req.set 0 0xFF, reqLen := 1, expLen := 0 } }
        else afterKick ((enterPhase .tpduExchange g).emits [rxDeliverWord s.ident b]))

/-- R184, R185: a byte of a PPS request is appended; the byte that completes the request has it evaluated. -/
def Obligations.PpsBytesAreCollectedAndEvaluated : Prop :=
  ∀ (b : Byte) (s : State), s.ident.inited = true → s.phase = .ppsNegotiation →
    s.pps.respLen = 0 →
      exec (.rxb false b) s =
        .next
          (let g := afterRxGood { s with pps := ppsRequestWith b s.pps }
          if ppsRequestComplete (ppsRequestWith b s.pps) then afterPpsEval g else g)

/-! ### TXRDY -/

/-- R133 steps 1 and 2: `ERR_PHASE` outside the exchange phases, `ST_IDLE` while the line is not turned. -/
def Obligations.TxrdyOutOfPlaceReturnsAStatus : Prop :=
  ∀ (nack : Bool) (s : State), s.ident.inited = true →
    (s.phase = .poweredOff ∨ s.phase = .resetAsserted ∨ s.phase = .errorHalt →
        exec (.txrdy nack) s = .next (s.returns 8)) ∧
      (exchangePhase s.phase = true → s.seq.txActive = false →
        exec (.txrdy nack) s = .next (s.returns 1))

/-- R136: a rejected byte is counted; the rejection that uses up the budget halts, an earlier one has the same
byte sent again. -/
def Obligations.RejectedByteIsRepeatedOrHalts : Prop :=
  ∀ s : State, s.ident.inited = true → exchangePhase s.phase = true → s.seq.txActive = true →
    s.seq.txLastValid = true →
      exec (.txrdy true) s =
        .next
          (let c : State := { s with seq := { s.seq with retryCnt := s.seq.retryCnt + 1 } }
          if s.config.parityRetryBudget ≤ s.seq.retryCnt.toNat + 1 then (afterHalt .parityRetry c).returns 11
          else (afterSend s.seq.txLast c).returns 0)

/-- R164: the next byte of the ATR. -/
def Obligations.TxrdySendsTheAtrByte : Prop :=
  ∀ (nack : Bool) (s : State), s.ident.inited = true → (s.seq.txLastValid && nack) = false →
    s.seq.txActive = true → s.phase = .atrDelivery → s.atr.done = false →
      s.atr.idx.toNat < s.atr.len.toNat →
        exec (.txrdy nack) s =
          .next
            ((afterSend (s.atr.buf.getD s.atr.idx.toNat 0)
              (acknowledged { s with atr := { s.atr with idx := s.atr.idx + 1 } })).returns 0)

/-- R165: the last byte of the ATR acknowledged. The waiting time is armed; without a PPS offer the exchange
begins and the queue is looked at, with one the engine waits for the first byte. -/
def Obligations.TxrdyEndsTheAtr : Prop :=
  ∀ (nack : Bool) (s : State), s.ident.inited = true → (s.seq.txLastValid && nack) = false →
    s.seq.txActive = true → s.phase = .atrDelivery → s.atr.done = false →
      s.atr.len.toNat ≤ s.atr.idx.toNat →
        exec (.txrdy nack) s =
          .next
            (if s.atr.ppsCapable then afterTxIdle (atrEnded (acknowledged s))
            else afterQueue (atrEnded (acknowledged s)))

/-- R186, R187: the next byte of the PPS response; after the last one the new F and D, and the exchange. -/
def Obligations.TxrdySendsThePpsResponse : Prop :=
  ∀ (nack : Bool) (s : State), s.ident.inited = true → (s.seq.txLastValid && nack) = false →
    s.seq.txActive = true → s.phase = .ppsNegotiation →
      (s.pps.respIdx.toNat < s.pps.respLen.toNat →
          exec (.txrdy nack) s =
            .next
              ((afterSend (s.pps.resp.getD s.pps.respIdx.toNat 0)
                (acknowledged
                  { s with pps := { s.pps with respIdx := s.pps.respIdx + 1 } })).returns 0)) ∧
        (s.pps.respLen.toNat ≤ s.pps.respIdx.toNat → s.pps.respLen ≠ 0 →
          exec (.txrdy nack) s = .next (afterQueue (ppsEnded (acknowledged s))))

/-- R133 steps 3 to 5, R63: in the exchange the queue's next byte is sent; with nothing to send the line is
turned to receive. -/
def Obligations.TxrdyDrainsTheQueue : Prop :=
  ∀ (nack : Bool) (s : State), s.ident.inited = true → (s.seq.txLastValid && nack) = false →
    s.seq.txActive = true → s.phase = .tpduExchange →
      exec (.txrdy nack) s = .next (afterQueue (acknowledged s))

/-- R63, R72: in the exchange, as many `TXRDY` as bytes wait hand over exactly those bytes, in order, across
the frames, and one more turns the line to receive. -/
def Obligations.QueuedBytesLeaveInOrder : Prop :=
  ∀ s : State, Inv s → s.ident.inited = true → s.phase = .tpduExchange → s.seq.txActive = true →
    ∃ t : State,
      runEvents
          (List.replicate ((waitingBytes s.txq).length + 1) (.txrdy false)) s = .next t ∧
        t.ports.cmds =
          s.ports.cmds ++
            (waitingBytes s.txq).flatMap (fun b => [txByteWord s.ident b, resetWtWord s.ident]) ++
              [enableWord s.ident 1] ∧
        t.ports.rets =
          s.ports.rets ++ List.replicate (waitingBytes s.txq).length 0 ++ [1] ∧
        t.phase = .tpduExchange ∧ t.txq = { frames := [], headOff := 0 } ∧
        t.seq.txActive = false ∧ t.line.dir = 1

/-! ### The timer events -/

/-- R230. -/
def Obligations.WthalfReportsWhenArmed : Prop :=
  ∀ s : State, s.ident.inited = true →
    encode .wthalf = [0x5000] ∧
      exec .wthalf s =
        .next
          (let h : State := { s with wt := { s.wt with half := true } }
          if s.wt.ticks = 0 then contractErrSet s else h.emits (statusWords h))

/-- R231, R142. -/
def Obligations.WtexpHaltsWhenArmed : Prop :=
  ∀ s : State, s.ident.inited = true →
    encode .wtexp = [0x5001] ∧
      exec .wtexp s =
        .next
          (if s.wt.ticks ≠ 0 then
            afterHalt .wtExpired { s with wt := { s.wt with full := true } }
          else if s.phase = .errorHalt then s
          else contractErrSet s)

/-- R232, R142. -/
def Obligations.GviolHaltsTheExchange : Prop :=
  ∀ s : State, s.ident.inited = true →
    encode .gviol = [0xA000] ∧
      exec .gviol s =
        .next
          (match s.phase with
          | .atrDelivery | .ppsNegotiation | .tpduExchange => afterHalt .guardViolation s
          | .poweredOff | .resetAsserted | .errorHalt => contractErrSet s)

/-! ### The queue manager and the status reporter -/

/-- R250, R62. -/
def Obligations.TxqappAppendsOrRejects : Prop :=
  ∀ (bytes : List Byte) (s : State), s.ident.inited = true →
    exec (.txqapp bytes) s =
      .next
        (if bytes = [] ∨ s.config.txqFrameMax < bytes.length then s.returns 12
        else if s.config.txqFramesMax ≤ s.txq.frames.length then s.returns 13
        else (frameAppended bytes s).returns 0)

/-- R251, R139. -/
def Obligations.NewtxStartsAnIdleTransmitter : Prop :=
  ∀ s : State, s.ident.inited = true →
    encode .newtx = [0x8001] ∧ exec .newtx s = .next (afterKick s)

/-- R252. -/
def Obligations.GettxqReturnsTheSlot : Prop :=
  ∀ s : State, s.ident.inited = true →
    encode .gettxq = [0x8000] ∧ exec .gettxq s = .next (s.returns (s.ident.slot.setWidth 8))

/-- R253. -/
def Obligations.RepstatEmitsTheRecord : Prop :=
  ∀ s : State, s.ident.inited = true →
    encode .repstat = [0x8002] ∧ exec .repstat s = .next (s.emits (statusWords s))

/-- R256: the header, and every field of the three words at its bits; STATUS touches no register. -/
def Obligations.StatusRecordHasTheLayout : Prop :=
  ∀ s : State,
    emit (statusCommand s) s =
        s.emits
          [0xA0000003 ||| (s.ident.slot.setWidth 32 <<< 24), statusW1 s, statusW2 s, statusW3 s] ∧
    (∀ n, (statusW1 s).getLsbD n =
        if n = 0 then s.lines.vcc
        else if n = 1 then s.lines.rst
        else if n = 2 then s.lines.clk
        else if n = 3 then s.wt.half
        else if n = 4 then s.wt.full
        else if n = 5 then s.patr.pending
        else if n = 6 then s.err.contractErr
        else if n = 7 then s.atr.done
        else if n ≤ 10 then (phaseCode s.phase).getLsbD (n - 8)
        else if n = 11 then s.seq.txActive
        else if n ≤ 15 then (causeCode s.err.cause).getLsbD (n - 12)
        else if n ≤ 19 then s.seq.retryCnt.getLsbD (n - 16)
        else if n ≤ 23 then s.fd.fi.getLsbD (n - 20)
        else if n ≤ 27 then s.fd.di.getLsbD (n - 24)
        else false) ∧
      (statusW2 s).setWidth 16 = fOf s.config s.fd.fi ∧
      (statusW2 s).extractLsb' 16 8 = dOf s.config s.fd.di ∧
      ((statusW2 s).extractLsb' 24 8).toNat = min s.txq.frames.length 255 ∧
      (statusW3 s).setWidth 24 = s.wt.ticks ∧ (statusW3 s).extractLsb' 24 8 = 0

/-! ### ETU -/

/-- R200, R114: without the clock a tick does nothing at all. -/
def Obligations.EtuWithoutClockDoesNothing : Prop :=
  ∀ (rdr : Bool) (s : State), s.ident.inited = true → s.lines.clk = false →
    exec (.etu rdr) s = .next s

/-- R200, R234: outside the exchange phases every step of a tick is idle but the reset-hold count. -/
def Obligations.EtuOutsideTheExchangeCountsTheHold : Prop :=
  ∀ (rdr : Bool) (s : State), Inv s → s.ident.inited = true → s.lines.clk = true →
    exchangePhase s.phase = false →
      exec (.etu rdr) s =
        .next
          (if s.phase = .resetAsserted ∧ s.lines.rst = true then
            { s with
              eng :=
                { s.eng with
                  rstHoldCnt := if s.eng.rstHoldCnt = 255 then 255 else s.eng.rstHoldCnt + 1 } }
          else s)

/-- R206, R233, R234, R235, R236: a tick with the receiver open. A low line the engine does not drive is a start
bit, at whatever point of the waiting time, which the tick counts after it. -/
def Obligations.EtuFindsTheStartBit : Prop :=
  ∀ (rdr : Bool) (s : State), s.ident.inited = true → s.lines.clk = true → s.fr.mode = .idle →
    s.line.dir = 1 →
      exec (.etu rdr) s =
        .next
          (let a := tickStart s
          waitTick
            (if rdr = false ∧ s.line.ioDrv = true then
              { a with fr := { a.fr with mode := .rx, slot := 1, shift := 0 } }
            else a))

/-- R236, R230, R231: a tick of the waiting time on an idle line, with the half notification and the expiry. -/
def Obligations.EtuCountsTheWaitingTime : Prop :=
  ∀ s : State, s.ident.inited = true → s.lines.clk = true → s.phase ≠ .resetAsserted →
    s.fr.mode = .idle → s.line.dir = 1 → s.line.ioDrv = true → s.line.errsigCnt = 0 →
      s.fr.holdoff = 0 → s.wt.ticks ≠ 0 →
        exec (.etu true) s =
          .next
            (let k := if s.wt.cnt = 0xFFFFFF then s.wt.cnt else s.wt.cnt + 1
            let c : State := { s with wt := { s.wt with cnt := k } }
            let h : State := { c with wt := { c.wt with half := true } }
            let n :=
              if s.wt.half = false ∧ s.wt.ticks.toNat ≤ 2 * k.toNat then
                h.emits (statusWords h)
              else c
            if s.wt.ticks.toNat ≤ k.toNat then
              afterHalt .wtExpired { n with wt := { n.wt with full := true } }
            else n)

/-- R207, R208, R233, R236: with the transmitter enabled and idle, a tick waits for the hold-off, then performs
the owed `TXRDY` and loads the byte it supplied; with none owed it loads a held byte. The waiting time, armed or
not, is counted after that. -/
def Obligations.EtuServesTheTransmitter : Prop :=
  ∀ (rdr : Bool) (s : State), s.ident.inited = true → s.lines.clk = true → s.fr.mode = .idle →
    s.line.dir = 2 →
      let a := tickStart s
      (2 ≤ s.fr.holdoff.toNat → exec (.etu rdr) s = .next (waitTick a)) ∧
        (s.fr.holdoff.toNat ≤ 1 → s.fr.txrdyPend = false →
          exec (.etu rdr) s = .next (waitTick (afterLoad a))) ∧
        (s.fr.holdoff.toNat ≤ 1 → s.fr.txrdyPend = true →
          exec (.etu rdr) s =
            .next
              (waitTick
                (afterLoad
                  (performed (.txrdy s.fr.nackSeen)
                    { a with fr := { a.fr with txrdyPend := false, nackSeen := false } }))))

/-- R204, R207, R208, R236: a transmitted slot ends. Slot 10 is sampled for the reader's error signal. The
character ends with slot `11 + EXTRA_GUARD_N`, one slot later after an error signal: the framer goes idle and the
transmitter is served in the same tick. -/
def Obligations.EtuSamplesTheErrorSignal : Prop :=
  ∀ (rdr : Bool) (s : State), s.ident.inited = true → s.lines.clk = true → s.fr.mode = .tx →
    let a := tickStart s
    let nack := if s.fr.slot = 10 then !(rdr && s.line.ioDrv) else s.fr.nackSeen
    exec (.etu rdr) s =
      .next
        (waitTick
          (if s.fr.slot.toNat < 11 + s.config.extraGuardN + nack.toNat then
            { a with fr := { a.fr with nackSeen := nack, slot := s.fr.slot + 1 } }
          else
            serviced
              { a with
                fr :=
                  { a.fr with nackSeen := nack, mode := .idle, slot := 0, txrdyPend := true } }))

/-- R205, R232: the guard time of a received character. Slots 10 and 11 pass, and after 11 the framer is idle and
the transmitter may be served in the same tick; a low line there, not driven by the engine, halts. -/
def Obligations.EtuCatchesTheGuardViolation : Prop :=
  ∀ (rdr : Bool) (s : State), s.ident.inited = true → s.lines.clk = true → s.fr.mode = .rx →
    s.fr.slot = 10 ∨ s.fr.slot = 11 →
      let a := tickStart s
      let g : State :=
        { a with
          fr :=
            if s.fr.slot = 10 then { a.fr with slot := 11 }
            else { a.fr with mode := .idle, slot := 0 } }
      exec (.etu rdr) s =
        .next
          (if rdr = false ∧ s.line.ioDrv = true then
            if exchangePhase s.phase then afterHalt .guardViolation a
            else waitTick (serviced (contractErrSet g))
          else waitTick (serviced g))

/-- R203, R205, R206, R209, R132, R135 (`RXCHAR` and `RXCHAR.PE` of R90): in every state with the receiver open
(the first byte after an ATR, a PPS request, the exchange) the ten slots of a character from the reader perform
`RXB` of its byte, with `perr` as its parity has it, while the waiting time counts; and in the exchange the
twelve slots deliver the byte, or with the wrong parity signal the error in slot 10 and release the line. -/
def Obligations.TwelveTicksReceiveACharacter : Prop :=
  ∀ (b : Byte) (s : State), s.ident.inited = true → s.lines.clk = true → s.phase ≠ .resetAsserted →
    s.fr.mode = .idle → s.line = { dir := 1, ioDrv := true, errsigCnt := 0 } →
      let frame (p : Bool) : BitVec 10 := BitVec.ofBool p ++ b ++ (0 : BitVec 1)
      let hold : Nat := max (s.fr.holdoff.toNat - 10) (s.config.turnaroundEtu - 10)
      (∀ p : Bool, noExpiry 9 s →
          runEvents ((rxCharWith b p).take 10) s =
            .next
              (waitTick
                (performed (.rxb (p != xorBits b) b)
                  { waitTicks 9 s with
                    fr :=
                      { s.fr with
                        mode := .rx, slot := 10, shift := frame p
                        holdoff := BitVec.ofNat 8 hold } }))) ∧
        (s.phase = .tpduExchange → configInRange s.config = true →
          2 * (s.wt.cnt.toNat + 12) < s.wt.ticks.toNat →
            let t (r : BitVec 4) (p : Bool) : State :=
              { s with
                seq := { s.seq with retryCnt := r }
                wt := { s.wt with cnt := 3, half := false }
                fr :=
                  { s.fr with
                    shift := frame p, holdoff := BitVec.ofNat 8 (hold - 2), slot := 0 } }
            runEvents (rxChar b) s =
                .next ((t 0 (xorBits b)).emits [resetWtWord s.ident, rxDeliverWord s.ident b]) ∧
              (s.seq.retryCnt.toNat + 1 < s.config.parityRetryBudget →
                runEvents (rxCharPe b) s =
                  .next
                    ((t (s.seq.retryCnt + 1) (!xorBits b)).emits
                      [resetWtWord s.ident, driveIoWord s.ident false, driveIoWord s.ident true])))

/-- R201, R203, R204, R236: a loaded character is on the line for twelve slots, with the level of each slot as the
character frame has it, while the waiting time, armed or not, counts. -/
def Obligations.TransmittedCharacterFillsItsSlots : Prop :=
  ∀ (b : Byte) (s : State) (k : Nat), s.ident.inited = true → s.lines.clk = true →
    s.phase ≠ .resetAsserted → s.line.ioDrv = true → s.line.errsigCnt = 0 → s.fr.mode = .tx →
      s.fr.slot = 0 → s.fr.shift = charFrame b → s.fr.nackSeen = false → k ≤ 11 → noExpiry k s →
        ∃ t : State,
          runEvents (etus k true) s = .next t ∧
            t =
              { waitTicks k s with
                fr :=
                  { s.fr with
                    slot := BitVec.ofNat 5 k
                    holdoff := BitVec.ofNat 8 (s.fr.holdoff.toNat - k) } } ∧
            ioOut t = lineLevel b k

/-- R209: the frame of a byte bit by bit, with the parity bit even; what a received frame is checked for and
read as; and so a change of any one of the nine sampled bits is found. -/
def Obligations.FrameParityFindsOneWrongBit : Prop :=
  (∀ (b : Byte) (k : Nat),
      (charFrame b).getLsbD k =
        if k = 0 then false
        else if k ≤ 8 then b.getLsbD (k - 1)
        else if k = 9 then decide ((List.range 8).countP (fun i => b.getLsbD i) % 2 = 1)
        else false) ∧
    (∀ shift : BitVec 10,
      (charParityErr shift = true ↔
          (List.range 9).countP (fun i => shift.getLsbD (i + 1)) % 2 = 1) ∧
        ∀ k, (charByte shift).getLsbD k = (decide (k < 8) && shift.getLsbD (k + 1))) ∧
    ∀ b : Byte,
      charParityErr (charFrame b) = false ∧ charByte (charFrame b) = b ∧
        ∀ i : Fin 9, charParityErr (charFrame b ^^^ (1#10 <<< (i.val + 1))) = true

/-! ### Tables and codes -/

/-- R180, R181, R182, R188, R12: the default F and D tables, the pairs a PPS may select by default (fi = 0 among
them, log entry 16), the waiting-time values; R22, R30, R88: the numeric codes. -/
def Obligations.TablesAndCodesHaveTheirValues : Prop :=
  (List.range 16).map (fun i => (fOf {} (BitVec.ofNat 4 i)).toNat) =
      [372, 372, 558, 744, 1116, 1488, 1860, 0, 0, 512, 768, 1024, 1536, 2048, 0, 0] ∧
    (List.range 16).map (fun i => (dOf {} (BitVec.ofNat 4 i)).toNat) =
      [0, 1, 2, 4, 8, 16, 32, 64, 12, 20, 0, 0, 0, 0, 0, 0] ∧
    (∀ fi di : BitVec 4,
      fdSupported {} fi di = true ↔
        fi.toNat ∈ [0, 1, 2, 3, 4, 5, 6, 9, 10, 11, 12, 13] ∧ 1 ≤ di.toNat ∧ di.toNat ≤ 9) ∧
    (List.range 10).map (fun i => (wtValue {} (BitVec.ofNat 4 i)).toNat) =
      [0, 9600, 19200, 38400, 76800, 153600, 307200, 614400, 115200, 192000] ∧
    (∀ (c : Config) (di : BitVec 4), configInRange c = true →
      (wtValue c di).toNat = 960 * c.wi * (dOf c di).toNat) ∧
    [Phase.poweredOff, .resetAsserted, .atrDelivery, .ppsNegotiation, .tpduExchange, .errorHalt].map
        (fun p => (phaseCode p).toNat) = [0, 1, 2, 3, 4, 5] ∧
    [ErrCause.none, .atrMalformed, .parityRetry, .wtExpired, .fdUnsupported, .ppsMalformed,
          .guardViolation].map (fun e => (causeCode e).toNat) = [0, 1, 2, 3, 4, 5, 6] ∧
    [Status.stOk, .stIdle, .stDeferred, .errPhase, .errAtrLen, .errAtrMalformed, .errRetry, .errTxqLen,
          .errTxqFull, .errIllegal].map (fun c => (statusCode c).toNat) =
      [0, 1, 2, 8, 9, 10, 11, 12, 13, 15]

/-! ### The machine as a whole -/

/-- R40, R12, R31, R38, R61: the invariant is kept by every step, from every state that has it. -/
def Obligations.EveryStepKeepsTheInvariant : Prop :=
  ∀ s t : State, Inv s → step s = .next t → Inv t

/-- R40: the state after reset has the invariant. (The register values of that state are the model's choice,
log entry 3.) -/
def Obligations.ResetHasTheInvariant : Prop := Inv State.reset

/-- R40, R41, R110: under a legal configuration `INIT` gives a state with the invariant, whatever was there
before. -/
def Obligations.InitEstablishesTheInvariant : Prop :=
  ∀ (slot tc uart : BitVec 2) (inep irqep : BitVec 3) (s t : State), s.ident.inited = false →
    configLegal s.config = true → exec (.init slot tc uart inep irqep) s = .next t → Inv t

/-- R130, R213: `PHASE` changes only along the rows of the transition table, on their events and conditions,
or in an `ETU` that performs the event of such a row when the rules of the framer and the timers say so. -/
def Obligations.PhaseFollowsTheTransitionTable : Prop :=
  ∀ (i : Instr) (s t : State), Inv s → s.ident.inited = true → exec i s = .next t →
    t.phase = s.phase ∨ transitionAllowed i s t.phase

/-- R130, R255: a change of `PHASE` is reported: among the words emitted is the STATUS record of a state in
the new phase. -/
def Obligations.PhaseChangeIsReported : Prop :=
  ∀ (i : Instr) (s t : State), s.ident.inited = true → exec i s = .next t → t.phase ≠ s.phase →
    ∃ (u : State) (before after : List CmdWord),
      u.phase = t.phase ∧ u.ident = s.ident ∧
        t.ports.cmds = s.ports.cmds ++ before ++ statusWords u ++ after

/-- R297, R288, R289: what every event does in `ERROR_HALT`, and that two events only leave it. -/
def Obligations.HaltedEngineAnswersEveryEvent : Prop :=
  ∀ s : State, Inv s → s.ident.inited = true → s.phase = .errorHalt →
    exec (.iochgVcc false) s =
        .next (afterPowerOff { s with lines := { s.lines with vcc := false } }) ∧
      exec (.iochgVcc true) s = .next s ∧
      exec (.iochgRst true) s =
        .next (afterReset { s with lines := { s.lines with rst := true } }) ∧
      exec (.iochgRst false) s = .next s ∧
      (∀ a, exec (.iochgClk a) s = .next { s with lines := { s.lines with clk := a } }) ∧
      (∀ p b, exec (.rxb p b) s = .next (contractErrSet s)) ∧
      (∀ n, exec (.txrdy n) s = .next (s.returns 8)) ∧
      exec .wthalf s = .next (contractErrSet s) ∧ exec .wtexp s = .next s ∧
      exec .gviol s = .next (contractErrSet s) ∧ exec .newtx s = .next s ∧
      (∀ r, exec (.etu r) s = .next s) ∧
      (∀ bytes,
        exec (.setatr bytes) s =
          .next
            (if s.config.atrMax < bytes.length then s.returns 9
            else if atrValid s.config bytes bytes.length = false then s.returns 10
            else (atrWritten bytes s).returns 0)) ∧
      (∀ bytes,
        exec (.txqapp bytes) s =
          .next
            (if bytes = [] ∨ s.config.txqFrameMax < bytes.length then s.returns 12
            else if s.config.txqFramesMax ≤ s.txq.frames.length then s.returns 13
            else (frameAppended bytes s).returns 0)) ∧
      exec .gettxq s = .next (s.returns (s.ident.slot.setWidth 8)) ∧
      exec .repstat s = .next (s.emits (statusWords s)) ∧
      ∀ i t, exec i s = .next t →
        t.phase = .errorHalt ∨ i = .iochgVcc false ∨ i = .iochgRst true

/-- R21, R23, R42: the identity is written once and the configuration never; `VCC`, `RST` and `CLK` are written
by the `IOCHG` events only. -/
def Obligations.IdentityAndLatchesHaveTheirWriters : Prop :=
  ∀ (i : Instr) (s t : State), s.ident.inited = true → exec i s = .next t →
    t.ident = s.ident ∧ t.config = s.config ∧
      ((∀ a, i ≠ .iochgVcc a) → t.lines.vcc = s.lines.vcc) ∧
      ((∀ a, i ≠ .iochgRst a) → t.lines.rst = s.lines.rst) ∧
      ((∀ a, i ≠ .iochgClk a) → t.lines.clk = s.lines.clk)

/-- R26, R187: `FI` and `DI` change only at a reset event, to the defaults, and at the end of a PPS, to the pair it
selected: no byte of the response is left (in a state of the invariant, `PPS_RESP_IDX = PPS_RESP_LEN`), and
`TPDU_EXCHANGE` is entered. -/
def Obligations.FdChangesOnlyAtResetOrPps : Prop :=
  ∀ (i : Instr) (s t : State), s.ident.inited = true → exec i s = .next t →
    (t.fd.fi = s.fd.fi ∧ t.fd.di = s.fd.di) ∨
      (t.fd.fi = s.config.fiDefault ∧ t.fd.di = s.config.diDefault ∧ t.phase = .resetAsserted) ∨
      (s.phase = .ppsNegotiation ∧ s.pps.respLen ≠ 0 ∧
        s.pps.respLen.toNat ≤ s.pps.respIdx.toNat ∧ (Inv s → s.pps.respIdx = s.pps.respLen) ∧
        t.phase = .tpduExchange ∧ t.fd.fi = s.fd.nfi ∧ t.fd.di = s.fd.ndi)

/-- R42: the step relation has the configuration and the event as its arguments, the registers as its state, and
the commands and return values as outputs that are no state. An event does to a machine what that relation says
of its registers, and its outputs are added to the trace kept beside them: what has left on the ports before,
and what waits on the event port, plays no part. -/
def Obligations.PastOutputsPlayNoPart : Prop :=
  ∀ (i : Instr) (s : State),
    exec i s = mapNext (withReaction s) (transition s.config i s.registers)

/-- R21, R189: no rule reads the USB endpoints or the divider's copies of F and D: states that differ in them
only answer an event with states, and outputs, that differ in them only. -/
def Obligations.EndpointsAndDividerPlayNoPart : Prop :=
  ∀ (i : Instr) (s t : State), inertBlanked s = inertBlanked t →
    mapNext inertBlanked (exec i s) = mapNext inertBlanked (exec i t)

/-- R62, R63, R64, R72: what one event can do to the bytes that wait in the queue: nothing; append an accepted
frame; take the first byte, which is then the byte handed to the framer; or discard all of them. -/
def Obligations.WaitingBytesKeepTheirOrder : Prop :=
  ∀ (i : Instr) (s t : State), Inv s → s.ident.inited = true → exec i s = .next t →
    waitingBytes t.txq = waitingBytes s.txq ∨
      (∃ bytes, i = .txqapp bytes ∧ waitingBytes t.txq = waitingBytes s.txq ++ bytes) ∨
      (∃ b, waitingBytes s.txq = b :: waitingBytes t.txq ∧ t.seq.txLast = b ∧
        t.seq.txLastValid = true ∧ t.phase = .tpduExchange) ∨
      (waitingBytes t.txq = [] ∧ (t.phase = .resetAsserted ∨ t.phase = .poweredOff))

end
end

