-- ==== Sys2Proof/Laws/Config.lean ====
section
/-! SUPPORT. What a legal configuration says (00_scope.md R7, 93_implementation_defined.md U8), range by range,
and the waiting-time value it gives (43_pps_and_fd.md R188). -/

namespace Sys2Proof.Machine

/-- The ranges of `configInRange`, one by one. -/
structure InRange (c : Config) : Prop where
  atrMax_least : 2 ≤ c.atrMax
  atrMax_most : c.atrMax ≤ 63
  defaultAtr_fits : c.defaultAtr.length ≤ c.atrMax
  ftab_length : c.ftab.length = 16
  dtab_length : c.dtab.length = 16
  default_supported : fdSupported c c.fiDefault c.diDefault = true
  wi_least : 1 ≤ c.wi
  wi_most : c.wi ≤ 255
  wait_fits : ∀ d ∈ c.dtab, 960 * c.wi * d.toNat < 2 ^ 24
  budget_least : 1 ≤ c.parityRetryBudget
  budget_most : c.parityRetryBudget ≤ 15
  hold_most : c.resetHoldMinEtu ≤ 255
  delay_most : c.atrDelayEtu ≤ 255
  turnaround_least : 12 ≤ c.turnaroundEtu
  turnaround_most : c.turnaroundEtu ≤ 255
  guard_most : c.extraGuardN ≤ 19
  errSignal : c.errSignalEtu = 1 ∨ c.errSignalEtu = 2
  frames_least : 1 ≤ c.txqFramesMax
  frame_least : 1 ≤ c.txqFrameMax
  frame_most : c.txqFrameMax ≤ 4095

variable {c : Config}

theorem inRange_of_check (h : configInRange c = true) : InRange c := by
  unfold configInRange at h
  simp only [Bool.and_eq_true, decide_eq_true_eq, and_assoc, List.all_eq_true] at h
  obtain ⟨h1, h2, h3, h4, h5, h6, h7, h8, h9, h10, h11, h12, h13, h14, h15, h16, h17, h18, h19, h20⟩ := h
  exact ⟨h1, h2, h3, h4, h5, h6, h7, h8, h9, h10, h11, h12, h13, h14, h15, h16, h17, h18, h19, h20⟩

theorem inRange_of_legal (h : configLegal c = true) : InRange c := by
  unfold configLegal at h
  exact inRange_of_check (by simp only [Bool.and_eq_true] at h; exact h.1)

/-- A legal configuration's `DEFAULT_ATR` is valid (R7). -/
theorem defaultAtr_valid (h : configLegal c = true) :
    atrValid c c.defaultAtr c.defaultAtr.length = true := by
  unfold configLegal at h; simp only [Bool.and_eq_true] at h; exact h.2

/-- The bytes a valid ATR has (R160). -/
theorem atrValid_length {b : List Byte} {n : Nat} (h : atrValid c b n = true) : n ≤ c.atrMax := by
  unfold atrValid at h
  by_contra hx
  rw [if_pos (Or.inr (by omega))] at h; cases h

/-- `FD_SUPPORTED` (R182). -/
theorem fdSupported_iff (c : Config) (fi di : BitVec 4) :
    fdSupported c fi di = true ↔ fOf c fi ≠ 0 ∧ dOf c di ≠ 0 ∧ (fi, di) ∉ c.fdWithdrawn := by
  unfold fdSupported
  simp [and_assoc]

/-- The waiting-time value is exact (R12, R188). -/
theorem wtValue_toNat (h : InRange c) (di : BitVec 4) :
    (wtValue c di).toNat = 960 * c.wi * (dOf c di).toNat := by
  have hd : di.toNat < c.dtab.length := by rw [h.dtab_length]; exact di.isLt
  have hm : dOf c di ∈ c.dtab := by
    unfold dOf; rw [List.getD_eq_getElem _ _ hd]; exact List.getElem_mem hd
  unfold wtValue
  rw [BitVec.toNat_ofNat]
  exact Nat.mod_eq_of_lt (h.wait_fits _ hm)

/-- With a D that is there, at least 960 ticks. -/
theorem wtValue_least (h : InRange c) {di : BitVec 4} (hd : dOf c di ≠ 0) : 960 ≤ (wtValue c di).toNat := by
  rw [wtValue_toNat h]
  have h1 : 1 ≤ (dOf c di).toNat := by
    rcases Nat.eq_zero_or_pos (dOf c di).toNat with h0 | h0
    · exact absurd (BitVec.eq_of_toNat_eq (by simpa using h0)) hd
    · exact h0
  have h2 := h.wi_least
  calc 960 = 960 * 1 * 1 := rfl
    _ ≤ 960 * c.wi * (dOf c di).toNat := Nat.mul_le_mul (Nat.mul_le_mul le_rfl h2) h1

/-- With a D that is there, the waiting time is armed. -/
theorem wtValue_ne_zero (h : InRange c) {di : BitVec 4} (hd : dOf c di ≠ 0) : wtValue c di ≠ 0 := by
  intro h0
  have := wtValue_least h hd
  rw [h0] at this; simp at this

/-- The value is 0 or at least 64: it is never a 1 that would expire in the tick that arms it. -/
theorem wtValue_mod (c : Config) (di : BitVec 4) : (wtValue c di).toNat % 64 = 0 := by
  unfold wtValue
  rw [BitVec.toNat_ofNat, Nat.mod_mod_of_dvd _ (by decide)]
  exact Nat.mod_eq_zero_of_dvd ⟨15 * c.wi * (dOf c di).toNat, by ring⟩

end Sys2Proof.Machine
end

