-- ==== Sys2Proof/Laws/State.lean ====
section
/-! SUPPORT. What each setter of Sys2Proof/Machine/State.lean does to each register group: the written
group holds the value, every other group and the configuration are unchanged. -/

namespace Sys2Proof.Machine

variable (s : State)

@[simp] theorem State.withIdent_ident (v : Ident) :
    (s.withIdent v).ident = v := rfl
@[simp] theorem State.withIdent_phase (v : Ident) :
    (s.withIdent v).phase = s.phase := rfl
@[simp] theorem State.withIdent_lines (v : Ident) :
    (s.withIdent v).lines = s.lines := rfl
@[simp] theorem State.withIdent_atr (v : Ident) :
    (s.withIdent v).atr = s.atr := rfl
@[simp] theorem State.withIdent_patr (v : Ident) :
    (s.withIdent v).patr = s.patr := rfl
@[simp] theorem State.withIdent_fd (v : Ident) :
    (s.withIdent v).fd = s.fd := rfl
@[simp] theorem State.withIdent_wt (v : Ident) :
    (s.withIdent v).wt = s.wt := rfl
@[simp] theorem State.withIdent_pps (v : Ident) :
    (s.withIdent v).pps = s.pps := rfl
@[simp] theorem State.withIdent_seq (v : Ident) :
    (s.withIdent v).seq = s.seq := rfl
@[simp] theorem State.withIdent_err (v : Ident) :
    (s.withIdent v).err = s.err := rfl
@[simp] theorem State.withIdent_txq (v : Ident) :
    (s.withIdent v).txq = s.txq := rfl
@[simp] theorem State.withIdent_line (v : Ident) :
    (s.withIdent v).line = s.line := rfl
@[simp] theorem State.withIdent_fr (v : Ident) :
    (s.withIdent v).fr = s.fr := rfl
@[simp] theorem State.withIdent_eng (v : Ident) :
    (s.withIdent v).eng = s.eng := rfl
@[simp] theorem State.withIdent_ports (v : Ident) :
    (s.withIdent v).ports = s.ports := rfl
@[simp] theorem State.withIdent_config (v : Ident) :
    (s.withIdent v).config = s.config := rfl

@[simp] theorem State.withPhase_ident (v : Phase) :
    (s.withPhase v).ident = s.ident := rfl
@[simp] theorem State.withPhase_phase (v : Phase) :
    (s.withPhase v).phase = v := rfl
@[simp] theorem State.withPhase_lines (v : Phase) :
    (s.withPhase v).lines = s.lines := rfl
@[simp] theorem State.withPhase_atr (v : Phase) :
    (s.withPhase v).atr = s.atr := rfl
@[simp] theorem State.withPhase_patr (v : Phase) :
    (s.withPhase v).patr = s.patr := rfl
@[simp] theorem State.withPhase_fd (v : Phase) :
    (s.withPhase v).fd = s.fd := rfl
@[simp] theorem State.withPhase_wt (v : Phase) :
    (s.withPhase v).wt = s.wt := rfl
@[simp] theorem State.withPhase_pps (v : Phase) :
    (s.withPhase v).pps = s.pps := rfl
@[simp] theorem State.withPhase_seq (v : Phase) :
    (s.withPhase v).seq = s.seq := rfl
@[simp] theorem State.withPhase_err (v : Phase) :
    (s.withPhase v).err = s.err := rfl
@[simp] theorem State.withPhase_txq (v : Phase) :
    (s.withPhase v).txq = s.txq := rfl
@[simp] theorem State.withPhase_line (v : Phase) :
    (s.withPhase v).line = s.line := rfl
@[simp] theorem State.withPhase_fr (v : Phase) :
    (s.withPhase v).fr = s.fr := rfl
@[simp] theorem State.withPhase_eng (v : Phase) :
    (s.withPhase v).eng = s.eng := rfl
@[simp] theorem State.withPhase_ports (v : Phase) :
    (s.withPhase v).ports = s.ports := rfl
@[simp] theorem State.withPhase_config (v : Phase) :
    (s.withPhase v).config = s.config := rfl

@[simp] theorem State.withLines_ident (v : Lines) :
    (s.withLines v).ident = s.ident := rfl
@[simp] theorem State.withLines_phase (v : Lines) :
    (s.withLines v).phase = s.phase := rfl
@[simp] theorem State.withLines_lines (v : Lines) :
    (s.withLines v).lines = v := rfl
@[simp] theorem State.withLines_atr (v : Lines) :
    (s.withLines v).atr = s.atr := rfl
@[simp] theorem State.withLines_patr (v : Lines) :
    (s.withLines v).patr = s.patr := rfl
@[simp] theorem State.withLines_fd (v : Lines) :
    (s.withLines v).fd = s.fd := rfl
@[simp] theorem State.withLines_wt (v : Lines) :
    (s.withLines v).wt = s.wt := rfl
@[simp] theorem State.withLines_pps (v : Lines) :
    (s.withLines v).pps = s.pps := rfl
@[simp] theorem State.withLines_seq (v : Lines) :
    (s.withLines v).seq = s.seq := rfl
@[simp] theorem State.withLines_err (v : Lines) :
    (s.withLines v).err = s.err := rfl
@[simp] theorem State.withLines_txq (v : Lines) :
    (s.withLines v).txq = s.txq := rfl
@[simp] theorem State.withLines_line (v : Lines) :
    (s.withLines v).line = s.line := rfl
@[simp] theorem State.withLines_fr (v : Lines) :
    (s.withLines v).fr = s.fr := rfl
@[simp] theorem State.withLines_eng (v : Lines) :
    (s.withLines v).eng = s.eng := rfl
@[simp] theorem State.withLines_ports (v : Lines) :
    (s.withLines v).ports = s.ports := rfl
@[simp] theorem State.withLines_config (v : Lines) :
    (s.withLines v).config = s.config := rfl

@[simp] theorem State.withAtr_ident (v : AtrHolder) :
    (s.withAtr v).ident = s.ident := rfl
@[simp] theorem State.withAtr_phase (v : AtrHolder) :
    (s.withAtr v).phase = s.phase := rfl
@[simp] theorem State.withAtr_lines (v : AtrHolder) :
    (s.withAtr v).lines = s.lines := rfl
@[simp] theorem State.withAtr_atr (v : AtrHolder) :
    (s.withAtr v).atr = v := rfl
@[simp] theorem State.withAtr_patr (v : AtrHolder) :
    (s.withAtr v).patr = s.patr := rfl
@[simp] theorem State.withAtr_fd (v : AtrHolder) :
    (s.withAtr v).fd = s.fd := rfl
@[simp] theorem State.withAtr_wt (v : AtrHolder) :
    (s.withAtr v).wt = s.wt := rfl
@[simp] theorem State.withAtr_pps (v : AtrHolder) :
    (s.withAtr v).pps = s.pps := rfl
@[simp] theorem State.withAtr_seq (v : AtrHolder) :
    (s.withAtr v).seq = s.seq := rfl
@[simp] theorem State.withAtr_err (v : AtrHolder) :
    (s.withAtr v).err = s.err := rfl
@[simp] theorem State.withAtr_txq (v : AtrHolder) :
    (s.withAtr v).txq = s.txq := rfl
@[simp] theorem State.withAtr_line (v : AtrHolder) :
    (s.withAtr v).line = s.line := rfl
@[simp] theorem State.withAtr_fr (v : AtrHolder) :
    (s.withAtr v).fr = s.fr := rfl
@[simp] theorem State.withAtr_eng (v : AtrHolder) :
    (s.withAtr v).eng = s.eng := rfl
@[simp] theorem State.withAtr_ports (v : AtrHolder) :
    (s.withAtr v).ports = s.ports := rfl
@[simp] theorem State.withAtr_config (v : AtrHolder) :
    (s.withAtr v).config = s.config := rfl

@[simp] theorem State.withPatr_ident (v : PendingAtr) :
    (s.withPatr v).ident = s.ident := rfl
@[simp] theorem State.withPatr_phase (v : PendingAtr) :
    (s.withPatr v).phase = s.phase := rfl
@[simp] theorem State.withPatr_lines (v : PendingAtr) :
    (s.withPatr v).lines = s.lines := rfl
@[simp] theorem State.withPatr_atr (v : PendingAtr) :
    (s.withPatr v).atr = s.atr := rfl
@[simp] theorem State.withPatr_patr (v : PendingAtr) :
    (s.withPatr v).patr = v := rfl
@[simp] theorem State.withPatr_fd (v : PendingAtr) :
    (s.withPatr v).fd = s.fd := rfl
@[simp] theorem State.withPatr_wt (v : PendingAtr) :
    (s.withPatr v).wt = s.wt := rfl
@[simp] theorem State.withPatr_pps (v : PendingAtr) :
    (s.withPatr v).pps = s.pps := rfl
@[simp] theorem State.withPatr_seq (v : PendingAtr) :
    (s.withPatr v).seq = s.seq := rfl
@[simp] theorem State.withPatr_err (v : PendingAtr) :
    (s.withPatr v).err = s.err := rfl
@[simp] theorem State.withPatr_txq (v : PendingAtr) :
    (s.withPatr v).txq = s.txq := rfl
@[simp] theorem State.withPatr_line (v : PendingAtr) :
    (s.withPatr v).line = s.line := rfl
@[simp] theorem State.withPatr_fr (v : PendingAtr) :
    (s.withPatr v).fr = s.fr := rfl
@[simp] theorem State.withPatr_eng (v : PendingAtr) :
    (s.withPatr v).eng = s.eng := rfl
@[simp] theorem State.withPatr_ports (v : PendingAtr) :
    (s.withPatr v).ports = s.ports := rfl
@[simp] theorem State.withPatr_config (v : PendingAtr) :
    (s.withPatr v).config = s.config := rfl

@[simp] theorem State.withFd_ident (v : FdRegs) :
    (s.withFd v).ident = s.ident := rfl
@[simp] theorem State.withFd_phase (v : FdRegs) :
    (s.withFd v).phase = s.phase := rfl
@[simp] theorem State.withFd_lines (v : FdRegs) :
    (s.withFd v).lines = s.lines := rfl
@[simp] theorem State.withFd_atr (v : FdRegs) :
    (s.withFd v).atr = s.atr := rfl
@[simp] theorem State.withFd_patr (v : FdRegs) :
    (s.withFd v).patr = s.patr := rfl
@[simp] theorem State.withFd_fd (v : FdRegs) :
    (s.withFd v).fd = v := rfl
@[simp] theorem State.withFd_wt (v : FdRegs) :
    (s.withFd v).wt = s.wt := rfl
@[simp] theorem State.withFd_pps (v : FdRegs) :
    (s.withFd v).pps = s.pps := rfl
@[simp] theorem State.withFd_seq (v : FdRegs) :
    (s.withFd v).seq = s.seq := rfl
@[simp] theorem State.withFd_err (v : FdRegs) :
    (s.withFd v).err = s.err := rfl
@[simp] theorem State.withFd_txq (v : FdRegs) :
    (s.withFd v).txq = s.txq := rfl
@[simp] theorem State.withFd_line (v : FdRegs) :
    (s.withFd v).line = s.line := rfl
@[simp] theorem State.withFd_fr (v : FdRegs) :
    (s.withFd v).fr = s.fr := rfl
@[simp] theorem State.withFd_eng (v : FdRegs) :
    (s.withFd v).eng = s.eng := rfl
@[simp] theorem State.withFd_ports (v : FdRegs) :
    (s.withFd v).ports = s.ports := rfl
@[simp] theorem State.withFd_config (v : FdRegs) :
    (s.withFd v).config = s.config := rfl

@[simp] theorem State.withWt_ident (v : WaitRegs) :
    (s.withWt v).ident = s.ident := rfl
@[simp] theorem State.withWt_phase (v : WaitRegs) :
    (s.withWt v).phase = s.phase := rfl
@[simp] theorem State.withWt_lines (v : WaitRegs) :
    (s.withWt v).lines = s.lines := rfl
@[simp] theorem State.withWt_atr (v : WaitRegs) :
    (s.withWt v).atr = s.atr := rfl
@[simp] theorem State.withWt_patr (v : WaitRegs) :
    (s.withWt v).patr = s.patr := rfl
@[simp] theorem State.withWt_fd (v : WaitRegs) :
    (s.withWt v).fd = s.fd := rfl
@[simp] theorem State.withWt_wt (v : WaitRegs) :
    (s.withWt v).wt = v := rfl
@[simp] theorem State.withWt_pps (v : WaitRegs) :
    (s.withWt v).pps = s.pps := rfl
@[simp] theorem State.withWt_seq (v : WaitRegs) :
    (s.withWt v).seq = s.seq := rfl
@[simp] theorem State.withWt_err (v : WaitRegs) :
    (s.withWt v).err = s.err := rfl
@[simp] theorem State.withWt_txq (v : WaitRegs) :
    (s.withWt v).txq = s.txq := rfl
@[simp] theorem State.withWt_line (v : WaitRegs) :
    (s.withWt v).line = s.line := rfl
@[simp] theorem State.withWt_fr (v : WaitRegs) :
    (s.withWt v).fr = s.fr := rfl
@[simp] theorem State.withWt_eng (v : WaitRegs) :
    (s.withWt v).eng = s.eng := rfl
@[simp] theorem State.withWt_ports (v : WaitRegs) :
    (s.withWt v).ports = s.ports := rfl
@[simp] theorem State.withWt_config (v : WaitRegs) :
    (s.withWt v).config = s.config := rfl

@[simp] theorem State.withPps_ident (v : PpsRegs) :
    (s.withPps v).ident = s.ident := rfl
@[simp] theorem State.withPps_phase (v : PpsRegs) :
    (s.withPps v).phase = s.phase := rfl
@[simp] theorem State.withPps_lines (v : PpsRegs) :
    (s.withPps v).lines = s.lines := rfl
@[simp] theorem State.withPps_atr (v : PpsRegs) :
    (s.withPps v).atr = s.atr := rfl
@[simp] theorem State.withPps_patr (v : PpsRegs) :
    (s.withPps v).patr = s.patr := rfl
@[simp] theorem State.withPps_fd (v : PpsRegs) :
    (s.withPps v).fd = s.fd := rfl
@[simp] theorem State.withPps_wt (v : PpsRegs) :
    (s.withPps v).wt = s.wt := rfl
@[simp] theorem State.withPps_pps (v : PpsRegs) :
    (s.withPps v).pps = v := rfl
@[simp] theorem State.withPps_seq (v : PpsRegs) :
    (s.withPps v).seq = s.seq := rfl
@[simp] theorem State.withPps_err (v : PpsRegs) :
    (s.withPps v).err = s.err := rfl
@[simp] theorem State.withPps_txq (v : PpsRegs) :
    (s.withPps v).txq = s.txq := rfl
@[simp] theorem State.withPps_line (v : PpsRegs) :
    (s.withPps v).line = s.line := rfl
@[simp] theorem State.withPps_fr (v : PpsRegs) :
    (s.withPps v).fr = s.fr := rfl
@[simp] theorem State.withPps_eng (v : PpsRegs) :
    (s.withPps v).eng = s.eng := rfl
@[simp] theorem State.withPps_ports (v : PpsRegs) :
    (s.withPps v).ports = s.ports := rfl
@[simp] theorem State.withPps_config (v : PpsRegs) :
    (s.withPps v).config = s.config := rfl

@[simp] theorem State.withSeq_ident (v : SeqRegs) :
    (s.withSeq v).ident = s.ident := rfl
@[simp] theorem State.withSeq_phase (v : SeqRegs) :
    (s.withSeq v).phase = s.phase := rfl
@[simp] theorem State.withSeq_lines (v : SeqRegs) :
    (s.withSeq v).lines = s.lines := rfl
@[simp] theorem State.withSeq_atr (v : SeqRegs) :
    (s.withSeq v).atr = s.atr := rfl
@[simp] theorem State.withSeq_patr (v : SeqRegs) :
    (s.withSeq v).patr = s.patr := rfl
@[simp] theorem State.withSeq_fd (v : SeqRegs) :
    (s.withSeq v).fd = s.fd := rfl
@[simp] theorem State.withSeq_wt (v : SeqRegs) :
    (s.withSeq v).wt = s.wt := rfl
@[simp] theorem State.withSeq_pps (v : SeqRegs) :
    (s.withSeq v).pps = s.pps := rfl
@[simp] theorem State.withSeq_seq (v : SeqRegs) :
    (s.withSeq v).seq = v := rfl
@[simp] theorem State.withSeq_err (v : SeqRegs) :
    (s.withSeq v).err = s.err := rfl
@[simp] theorem State.withSeq_txq (v : SeqRegs) :
    (s.withSeq v).txq = s.txq := rfl
@[simp] theorem State.withSeq_line (v : SeqRegs) :
    (s.withSeq v).line = s.line := rfl
@[simp] theorem State.withSeq_fr (v : SeqRegs) :
    (s.withSeq v).fr = s.fr := rfl
@[simp] theorem State.withSeq_eng (v : SeqRegs) :
    (s.withSeq v).eng = s.eng := rfl
@[simp] theorem State.withSeq_ports (v : SeqRegs) :
    (s.withSeq v).ports = s.ports := rfl
@[simp] theorem State.withSeq_config (v : SeqRegs) :
    (s.withSeq v).config = s.config := rfl

@[simp] theorem State.withErr_ident (v : ErrRegs) :
    (s.withErr v).ident = s.ident := rfl
@[simp] theorem State.withErr_phase (v : ErrRegs) :
    (s.withErr v).phase = s.phase := rfl
@[simp] theorem State.withErr_lines (v : ErrRegs) :
    (s.withErr v).lines = s.lines := rfl
@[simp] theorem State.withErr_atr (v : ErrRegs) :
    (s.withErr v).atr = s.atr := rfl
@[simp] theorem State.withErr_patr (v : ErrRegs) :
    (s.withErr v).patr = s.patr := rfl
@[simp] theorem State.withErr_fd (v : ErrRegs) :
    (s.withErr v).fd = s.fd := rfl
@[simp] theorem State.withErr_wt (v : ErrRegs) :
    (s.withErr v).wt = s.wt := rfl
@[simp] theorem State.withErr_pps (v : ErrRegs) :
    (s.withErr v).pps = s.pps := rfl
@[simp] theorem State.withErr_seq (v : ErrRegs) :
    (s.withErr v).seq = s.seq := rfl
@[simp] theorem State.withErr_err (v : ErrRegs) :
    (s.withErr v).err = v := rfl
@[simp] theorem State.withErr_txq (v : ErrRegs) :
    (s.withErr v).txq = s.txq := rfl
@[simp] theorem State.withErr_line (v : ErrRegs) :
    (s.withErr v).line = s.line := rfl
@[simp] theorem State.withErr_fr (v : ErrRegs) :
    (s.withErr v).fr = s.fr := rfl
@[simp] theorem State.withErr_eng (v : ErrRegs) :
    (s.withErr v).eng = s.eng := rfl
@[simp] theorem State.withErr_ports (v : ErrRegs) :
    (s.withErr v).ports = s.ports := rfl
@[simp] theorem State.withErr_config (v : ErrRegs) :
    (s.withErr v).config = s.config := rfl

@[simp] theorem State.withTxq_ident (v : TxQueue) :
    (s.withTxq v).ident = s.ident := rfl
@[simp] theorem State.withTxq_phase (v : TxQueue) :
    (s.withTxq v).phase = s.phase := rfl
@[simp] theorem State.withTxq_lines (v : TxQueue) :
    (s.withTxq v).lines = s.lines := rfl
@[simp] theorem State.withTxq_atr (v : TxQueue) :
    (s.withTxq v).atr = s.atr := rfl
@[simp] theorem State.withTxq_patr (v : TxQueue) :
    (s.withTxq v).patr = s.patr := rfl
@[simp] theorem State.withTxq_fd (v : TxQueue) :
    (s.withTxq v).fd = s.fd := rfl
@[simp] theorem State.withTxq_wt (v : TxQueue) :
    (s.withTxq v).wt = s.wt := rfl
@[simp] theorem State.withTxq_pps (v : TxQueue) :
    (s.withTxq v).pps = s.pps := rfl
@[simp] theorem State.withTxq_seq (v : TxQueue) :
    (s.withTxq v).seq = s.seq := rfl
@[simp] theorem State.withTxq_err (v : TxQueue) :
    (s.withTxq v).err = s.err := rfl
@[simp] theorem State.withTxq_txq (v : TxQueue) :
    (s.withTxq v).txq = v := rfl
@[simp] theorem State.withTxq_line (v : TxQueue) :
    (s.withTxq v).line = s.line := rfl
@[simp] theorem State.withTxq_fr (v : TxQueue) :
    (s.withTxq v).fr = s.fr := rfl
@[simp] theorem State.withTxq_eng (v : TxQueue) :
    (s.withTxq v).eng = s.eng := rfl
@[simp] theorem State.withTxq_ports (v : TxQueue) :
    (s.withTxq v).ports = s.ports := rfl
@[simp] theorem State.withTxq_config (v : TxQueue) :
    (s.withTxq v).config = s.config := rfl

@[simp] theorem State.withLine_ident (v : LineCtl) :
    (s.withLine v).ident = s.ident := rfl
@[simp] theorem State.withLine_phase (v : LineCtl) :
    (s.withLine v).phase = s.phase := rfl
@[simp] theorem State.withLine_lines (v : LineCtl) :
    (s.withLine v).lines = s.lines := rfl
@[simp] theorem State.withLine_atr (v : LineCtl) :
    (s.withLine v).atr = s.atr := rfl
@[simp] theorem State.withLine_patr (v : LineCtl) :
    (s.withLine v).patr = s.patr := rfl
@[simp] theorem State.withLine_fd (v : LineCtl) :
    (s.withLine v).fd = s.fd := rfl
@[simp] theorem State.withLine_wt (v : LineCtl) :
    (s.withLine v).wt = s.wt := rfl
@[simp] theorem State.withLine_pps (v : LineCtl) :
    (s.withLine v).pps = s.pps := rfl
@[simp] theorem State.withLine_seq (v : LineCtl) :
    (s.withLine v).seq = s.seq := rfl
@[simp] theorem State.withLine_err (v : LineCtl) :
    (s.withLine v).err = s.err := rfl
@[simp] theorem State.withLine_txq (v : LineCtl) :
    (s.withLine v).txq = s.txq := rfl
@[simp] theorem State.withLine_line (v : LineCtl) :
    (s.withLine v).line = v := rfl
@[simp] theorem State.withLine_fr (v : LineCtl) :
    (s.withLine v).fr = s.fr := rfl
@[simp] theorem State.withLine_eng (v : LineCtl) :
    (s.withLine v).eng = s.eng := rfl
@[simp] theorem State.withLine_ports (v : LineCtl) :
    (s.withLine v).ports = s.ports := rfl
@[simp] theorem State.withLine_config (v : LineCtl) :
    (s.withLine v).config = s.config := rfl

@[simp] theorem State.withFr_ident (v : FramerRegs) :
    (s.withFr v).ident = s.ident := rfl
@[simp] theorem State.withFr_phase (v : FramerRegs) :
    (s.withFr v).phase = s.phase := rfl
@[simp] theorem State.withFr_lines (v : FramerRegs) :
    (s.withFr v).lines = s.lines := rfl
@[simp] theorem State.withFr_atr (v : FramerRegs) :
    (s.withFr v).atr = s.atr := rfl
@[simp] theorem State.withFr_patr (v : FramerRegs) :
    (s.withFr v).patr = s.patr := rfl
@[simp] theorem State.withFr_fd (v : FramerRegs) :
    (s.withFr v).fd = s.fd := rfl
@[simp] theorem State.withFr_wt (v : FramerRegs) :
    (s.withFr v).wt = s.wt := rfl
@[simp] theorem State.withFr_pps (v : FramerRegs) :
    (s.withFr v).pps = s.pps := rfl
@[simp] theorem State.withFr_seq (v : FramerRegs) :
    (s.withFr v).seq = s.seq := rfl
@[simp] theorem State.withFr_err (v : FramerRegs) :
    (s.withFr v).err = s.err := rfl
@[simp] theorem State.withFr_txq (v : FramerRegs) :
    (s.withFr v).txq = s.txq := rfl
@[simp] theorem State.withFr_line (v : FramerRegs) :
    (s.withFr v).line = s.line := rfl
@[simp] theorem State.withFr_fr (v : FramerRegs) :
    (s.withFr v).fr = v := rfl
@[simp] theorem State.withFr_eng (v : FramerRegs) :
    (s.withFr v).eng = s.eng := rfl
@[simp] theorem State.withFr_ports (v : FramerRegs) :
    (s.withFr v).ports = s.ports := rfl
@[simp] theorem State.withFr_config (v : FramerRegs) :
    (s.withFr v).config = s.config := rfl

@[simp] theorem State.withEng_ident (v : EngineRegs) :
    (s.withEng v).ident = s.ident := rfl
@[simp] theorem State.withEng_phase (v : EngineRegs) :
    (s.withEng v).phase = s.phase := rfl
@[simp] theorem State.withEng_lines (v : EngineRegs) :
    (s.withEng v).lines = s.lines := rfl
@[simp] theorem State.withEng_atr (v : EngineRegs) :
    (s.withEng v).atr = s.atr := rfl
@[simp] theorem State.withEng_patr (v : EngineRegs) :
    (s.withEng v).patr = s.patr := rfl
@[simp] theorem State.withEng_fd (v : EngineRegs) :
    (s.withEng v).fd = s.fd := rfl
@[simp] theorem State.withEng_wt (v : EngineRegs) :
    (s.withEng v).wt = s.wt := rfl
@[simp] theorem State.withEng_pps (v : EngineRegs) :
    (s.withEng v).pps = s.pps := rfl
@[simp] theorem State.withEng_seq (v : EngineRegs) :
    (s.withEng v).seq = s.seq := rfl
@[simp] theorem State.withEng_err (v : EngineRegs) :
    (s.withEng v).err = s.err := rfl
@[simp] theorem State.withEng_txq (v : EngineRegs) :
    (s.withEng v).txq = s.txq := rfl
@[simp] theorem State.withEng_line (v : EngineRegs) :
    (s.withEng v).line = s.line := rfl
@[simp] theorem State.withEng_fr (v : EngineRegs) :
    (s.withEng v).fr = s.fr := rfl
@[simp] theorem State.withEng_eng (v : EngineRegs) :
    (s.withEng v).eng = v := rfl
@[simp] theorem State.withEng_ports (v : EngineRegs) :
    (s.withEng v).ports = s.ports := rfl
@[simp] theorem State.withEng_config (v : EngineRegs) :
    (s.withEng v).config = s.config := rfl

@[simp] theorem State.withPorts_ident (v : Ports) :
    (s.withPorts v).ident = s.ident := rfl
@[simp] theorem State.withPorts_phase (v : Ports) :
    (s.withPorts v).phase = s.phase := rfl
@[simp] theorem State.withPorts_lines (v : Ports) :
    (s.withPorts v).lines = s.lines := rfl
@[simp] theorem State.withPorts_atr (v : Ports) :
    (s.withPorts v).atr = s.atr := rfl
@[simp] theorem State.withPorts_patr (v : Ports) :
    (s.withPorts v).patr = s.patr := rfl
@[simp] theorem State.withPorts_fd (v : Ports) :
    (s.withPorts v).fd = s.fd := rfl
@[simp] theorem State.withPorts_wt (v : Ports) :
    (s.withPorts v).wt = s.wt := rfl
@[simp] theorem State.withPorts_pps (v : Ports) :
    (s.withPorts v).pps = s.pps := rfl
@[simp] theorem State.withPorts_seq (v : Ports) :
    (s.withPorts v).seq = s.seq := rfl
@[simp] theorem State.withPorts_err (v : Ports) :
    (s.withPorts v).err = s.err := rfl
@[simp] theorem State.withPorts_txq (v : Ports) :
    (s.withPorts v).txq = s.txq := rfl
@[simp] theorem State.withPorts_line (v : Ports) :
    (s.withPorts v).line = s.line := rfl
@[simp] theorem State.withPorts_fr (v : Ports) :
    (s.withPorts v).fr = s.fr := rfl
@[simp] theorem State.withPorts_eng (v : Ports) :
    (s.withPorts v).eng = s.eng := rfl
@[simp] theorem State.withPorts_ports (v : Ports) :
    (s.withPorts v).ports = v := rfl
@[simp] theorem State.withPorts_config (v : Ports) :
    (s.withPorts v).config = s.config := rfl

/-- A machine is its registers, its configuration and its ports. -/
@[simp] theorem State.registers_machine : s.registers.machine s.config s.ports = s := rfl

@[simp] theorem Registers.machine_registers (r : Registers) (c : Config) (p : Ports) :
    (r.machine c p).registers = r := rfl
@[simp] theorem Registers.machine_config (r : Registers) (c : Config) (p : Ports) :
    (r.machine c p).config = c := rfl
@[simp] theorem Registers.machine_ports (r : Registers) (c : Config) (p : Ports) :
    (r.machine c p).ports = p := rfl

/-- Two states with equal register groups are equal. -/
theorem State.ext_groups {s t : State} (h1 : s.ident = t.ident) (h2 : s.phase = t.phase)
    (h3 : s.lines = t.lines) (h4 : s.atr = t.atr) (h5 : s.patr = t.patr) (h6 : s.fd = t.fd)
    (h7 : s.wt = t.wt) (h8 : s.pps = t.pps) (h9 : s.seq = t.seq) (h10 : s.err = t.err)
    (h11 : s.txq = t.txq) (h12 : s.line = t.line) (h13 : s.fr = t.fr) (h14 : s.eng = t.eng)
    (h15 : s.config = t.config) (h16 : s.ports = t.ports) : s = t := by
  cases s; cases t; simp_all

end Sys2Proof.Machine
end

