-- ==== Sys2Proof/Laws/Ops.lean ====
section
/-! SUPPORT. What the shared operations of Sys2Proof/Machine/Ops.lean do, once each: the state an operation
gives, written out, and what it leaves alone. -/

namespace Sys2Proof.Machine

variable (s t : State)

/-! ### The handle -/

/-- An event on a created instance completes with the state its rule gives. -/
theorem created_of_inited (h : s.ident.inited = true) : created s t = .next t := by
  simp [created, h]

/-- Before `INIT` there is no meaning (R115). -/
theorem created_of_not_inited (h : s.ident.inited = false) :
    created s t = .refused .beforeInit := by
  simp [created, h]

/-- What an event can answer: its state on a created instance, a refusal otherwise. -/
theorem created_cases {u : State} (h : created s t = .next u) : s.ident.inited = true ∧ u = t := by
  unfold created at h
  split at h
  · exact ⟨‹_›, by injection h with h; exact h.symm⟩
  · cases h

/-! ### Outputs: what `emits` and `returns` leave alone -/

@[simp] theorem emits_ident (ws : List CmdWord) : (s.emits ws).ident = s.ident := rfl
@[simp] theorem emits_phase (ws : List CmdWord) : (s.emits ws).phase = s.phase := rfl
@[simp] theorem emits_lines (ws : List CmdWord) : (s.emits ws).lines = s.lines := rfl
@[simp] theorem emits_atr (ws : List CmdWord) : (s.emits ws).atr = s.atr := rfl
@[simp] theorem emits_patr (ws : List CmdWord) : (s.emits ws).patr = s.patr := rfl
@[simp] theorem emits_fd (ws : List CmdWord) : (s.emits ws).fd = s.fd := rfl
@[simp] theorem emits_wt (ws : List CmdWord) : (s.emits ws).wt = s.wt := rfl
@[simp] theorem emits_pps (ws : List CmdWord) : (s.emits ws).pps = s.pps := rfl
@[simp] theorem emits_seq (ws : List CmdWord) : (s.emits ws).seq = s.seq := rfl
@[simp] theorem emits_err (ws : List CmdWord) : (s.emits ws).err = s.err := rfl
@[simp] theorem emits_txq (ws : List CmdWord) : (s.emits ws).txq = s.txq := rfl
@[simp] theorem emits_line (ws : List CmdWord) : (s.emits ws).line = s.line := rfl
@[simp] theorem emits_fr (ws : List CmdWord) : (s.emits ws).fr = s.fr := rfl
@[simp] theorem emits_eng (ws : List CmdWord) : (s.emits ws).eng = s.eng := rfl
@[simp] theorem emits_config (ws : List CmdWord) : (s.emits ws).config = s.config := rfl
@[simp] theorem emits_ports (ws : List CmdWord) :
    (s.emits ws).ports = { s.ports with cmds := s.ports.cmds ++ ws } := rfl
theorem emits_emits (v w : List CmdWord) : (s.emits v).emits w = s.emits (v ++ w) := by
  simp [State.emits]

@[simp] theorem returns_ident (v : BitVec 8) : (s.returns v).ident = s.ident := rfl
@[simp] theorem returns_phase (v : BitVec 8) : (s.returns v).phase = s.phase := rfl
@[simp] theorem returns_lines (v : BitVec 8) : (s.returns v).lines = s.lines := rfl
@[simp] theorem returns_atr (v : BitVec 8) : (s.returns v).atr = s.atr := rfl
@[simp] theorem returns_patr (v : BitVec 8) : (s.returns v).patr = s.patr := rfl
@[simp] theorem returns_fd (v : BitVec 8) : (s.returns v).fd = s.fd := rfl
@[simp] theorem returns_wt (v : BitVec 8) : (s.returns v).wt = s.wt := rfl
@[simp] theorem returns_pps (v : BitVec 8) : (s.returns v).pps = s.pps := rfl
@[simp] theorem returns_seq (v : BitVec 8) : (s.returns v).seq = s.seq := rfl
@[simp] theorem returns_err (v : BitVec 8) : (s.returns v).err = s.err := rfl
@[simp] theorem returns_txq (v : BitVec 8) : (s.returns v).txq = s.txq := rfl
@[simp] theorem returns_line (v : BitVec 8) : (s.returns v).line = s.line := rfl
@[simp] theorem returns_fr (v : BitVec 8) : (s.returns v).fr = s.fr := rfl
@[simp] theorem returns_eng (v : BitVec 8) : (s.returns v).eng = s.eng := rfl
@[simp] theorem returns_config (v : BitVec 8) : (s.returns v).config = s.config := rfl
@[simp] theorem returns_ports (v : BitVec 8) :
    (s.returns v).ports = { s.ports with rets := s.ports.rets ++ [v] } := rfl

/-! ### Commands (R10, R215 to R222) -/

theorem zeros_append {n m : Nat} (v : BitVec m) : (0 : BitVec n) ++ v = v.setWidth (n + m) := by
  apply BitVec.eq_of_toNat_eq
  simp only [BitVec.toNat_append, BitVec.toNat_setWidth, BitVec.ofNat_eq_ofNat, BitVec.toNat_ofNat,
    Nat.zero_mod, Nat.zero_shiftLeft, Nat.zero_or]
  exact (Nat.mod_eq_of_lt (Nat.lt_of_lt_of_le v.isLt
    (Nat.pow_le_pow_right (by omega) (Nat.le_add_left _ _)))).symm

theorem driveIo_payload (level : Bool) :
    (0 : BitVec 23) ++ BitVec.ofBool level = if level then 1 else 0 := by cases level <;> rfl

/-- `emit`: the command's effect, and its words on the command port. -/
theorem emit_eq (c : Command) :
    emit c s = (commandEffect c s).withPorts
      { s.ports with cmds := s.ports.cmds ++ commandWords s.ident c } := rfl

/-- A command without an effect (R221, R254, R256) leaves its words only. -/
theorem emit_inert (c : Command) (h : commandEffect c s = s) :
    emit c s = s.emits (commandWords s.ident c) := by
  rw [emit_eq, h]; rfl

/-- SET_FD (R215). -/
theorem emit_setFd (f : BitVec 16) (d : BitVec 8) :
    emit (.setFd f d) s = ({ s with eng := { s.eng with engF := f, engD := d } } : State).emits
      [cmdWord 1 s.ident.uartChan (f ++ d)] := rfl

/-- UPDATE_WT(0) disarms and keeps the flags (R216). -/
theorem emit_updateWt_zero :
    emit (.updateWt 0) s = ({ s with wt := { s.wt with ticks := 0, cnt := 0 } } : State).emits
      [updateWtWord s.ident 0] := by
  simp [emit_eq, commandEffect, effUpdateWt, State.withPorts, State.withWt, State.emits, commandWords,
    updateWtWord]

/-- UPDATE_WT: a non-zero value arms and clears the flags, 0 keeps them (R216). -/
theorem emit_updateWt (v : BitVec 24) :
    emit (.updateWt v) s =
      ({ s with
          wt :=
            { ticks := v, cnt := 0
              half := s.wt.half && v == 0
              full := s.wt.full && v == 0 } } : State).emits
        [updateWtWord s.ident v] := rfl

/-- RESET_WT (R217). -/
theorem emit_resetWt :
    emit .resetWt s = ({ s with wt := { s.wt with cnt := 0, half := false } } : State).emits
      [resetWtWord s.ident] := rfl

/-- DRIVE_IO (R218). -/
theorem emit_driveIo (level : Bool) :
    emit (.driveIo level) s = ({ s with line := { s.line with ioDrv := level } } : State).emits
      [driveIoWord s.ident level] := by
  rw [driveIoWord, ← driveIo_payload]; rfl

/-- TX_BYTE (R219). -/
theorem emit_txByte (b : Byte) :
    emit (.txByte b) s = ({ s with fr := { s.fr with thr := b, thrValid := true } } : State).emits
      [txByteWord s.ident b] := by
  rw [txByteWord, ← zeros_append (n := 16)]; rfl

/-- ENABLE(0): line and framer quiet (R220). `IO_DRV` is not touched. -/
theorem emit_enable_off :
    emit (.enable 0) s =
      ({ s with line := { s.line with dir := 0, errsigCnt := 0 }, fr := quietFramer s.fr } :
        State).emits [enableWord s.ident 0] := rfl

/-- ENABLE(RX): a disabled transmitter holds no byte and owes no notification (R220). -/
theorem emit_enable_rx :
    emit (.enable 1) s =
      ({ s with
          line := { s.line with dir := 1 }
          fr := { s.fr with thrValid := false, txrdyPend := false, nackSeen := false } } :
        State).emits [enableWord s.ident 1] := rfl

/-- ENABLE(TX): the direction only (R220). -/
theorem emit_enable_tx :
    emit (.enable 2) s = ({ s with line := { s.line with dir := 2 } } : State).emits
      [enableWord s.ident 2] := rfl

/-- WAIT_TX_IDLE (R221). -/
theorem emit_waitTxIdle : emit .waitTxIdle s = s.emits [waitTxIdleWord s.ident] := rfl

/-- REQUEST_IRQ (R222). -/
theorem emit_requestIrq :
    emit .requestIrq s = ({ s with fr := { s.fr with txrdyPend := true } } : State).emits
      [requestIrqWord s.ident] := rfl

/-- RX_DELIVER (R254). -/
theorem emit_rxDeliver (b : Byte) :
    emit (.rxDeliver b) s = s.emits [rxDeliverWord s.ident b] := by
  rw [rxDeliverWord, ← zeros_append (n := 16)]; rfl

/-- STATUS is a snapshot of the state (R255, R256). -/
theorem emitStatus_eq : emitStatus s = s.emits (statusWords s) := rfl

/-- A value on the return port (R80). -/
theorem ret_eq (v : BitVec 8) : ret v s = s.returns v := rfl

/-- `return S` (R88). -/
theorem retStatus_eq (c : Status) : retStatus c s = s.returns (statusCode c) := rfl

/-! What no command touches. -/

theorem commandEffect_frame (c : Command) :
    (commandEffect c s).ident = s.ident ∧ (commandEffect c s).phase = s.phase ∧
      (commandEffect c s).lines = s.lines ∧ (commandEffect c s).atr = s.atr ∧
      (commandEffect c s).patr = s.patr ∧ (commandEffect c s).fd = s.fd ∧
      (commandEffect c s).pps = s.pps ∧ (commandEffect c s).seq = s.seq ∧
      (commandEffect c s).err = s.err ∧ (commandEffect c s).txq = s.txq ∧
      (commandEffect c s).config = s.config := by
  cases c <;>
    simp [commandEffect, effSetFd, effUpdateWt, effResetWt, effDriveIo, effTxByte, effRequestIrq]
  unfold effEnable
  split
  · simp
  · split <;> simp

@[simp] theorem emit_ident (c : Command) : (emit c s).ident = s.ident :=
  (commandEffect_frame s c).1
@[simp] theorem emit_phase (c : Command) : (emit c s).phase = s.phase :=
  (commandEffect_frame s c).2.1
@[simp] theorem emit_lines (c : Command) : (emit c s).lines = s.lines :=
  (commandEffect_frame s c).2.2.1
@[simp] theorem emit_atr (c : Command) : (emit c s).atr = s.atr :=
  (commandEffect_frame s c).2.2.2.1
@[simp] theorem emit_patr (c : Command) : (emit c s).patr = s.patr :=
  (commandEffect_frame s c).2.2.2.2.1
@[simp] theorem emit_fd (c : Command) : (emit c s).fd = s.fd :=
  (commandEffect_frame s c).2.2.2.2.2.1
@[simp] theorem emit_pps (c : Command) : (emit c s).pps = s.pps :=
  (commandEffect_frame s c).2.2.2.2.2.2.1
@[simp] theorem emit_seq (c : Command) : (emit c s).seq = s.seq :=
  (commandEffect_frame s c).2.2.2.2.2.2.2.1
@[simp] theorem emit_err (c : Command) : (emit c s).err = s.err :=
  (commandEffect_frame s c).2.2.2.2.2.2.2.2.1
@[simp] theorem emit_txq (c : Command) : (emit c s).txq = s.txq :=
  (commandEffect_frame s c).2.2.2.2.2.2.2.2.2.1
@[simp] theorem emit_config (c : Command) : (emit c s).config = s.config :=
  (commandEffect_frame s c).2.2.2.2.2.2.2.2.2.2
@[simp] theorem emit_ports (c : Command) :
    (emit c s).ports = { s.ports with cmds := s.ports.cmds ++ commandWords s.ident c } := rfl

/-! ### The session subroutines and the halt -/

/-- `quiesce()` (R144). -/
theorem quiesce_eq :
    quiesce s =
      ({ s with
          line := quietLine
          fr := quietFramer s.fr
          wt := { s.wt with ticks := 0, cnt := 0 } } : State).emits (quiesceWords s.ident) := by
  rw [quiesce, emit_updateWt_zero, emit_driveIo, emit_enable_off]
  simp [State.emits, quiesceWords, quietLine]

/-- `quiesce()` then `clear_session()` (R143, R144). -/
theorem clearSession_quiesce :
    clearSession (quiesce s) = (sessionCleared s).emits (quiesceWords s.ident) := by
  rw [quiesce_eq]; rfl

/-- `halt(cause)` is the column "after halt" of R41. -/
theorem halt_eq (cause : ErrCause) : halt cause s = afterHalt cause s := by
  unfold halt
  rw [quiesce_eq, emitStatus_eq]
  simp [afterHalt, haltRegs, State.emits, statusWords, statusW1, statusW2, statusW3,
    State.withPhase, State.withErr, State.withSeq]

/-- `reset_event()` is the column "after reset event" of R41. -/
theorem resetEvent_eq : resetEvent s = afterReset s := by
  unfold resetEvent
  rw [clearSession_quiesce, emitStatus_eq]
  unfold emitSetFd applyPendingAtr
  rw [emit_setFd]
  rcases hp : s.patr with ⟨pb, pl, pf⟩
  cases pf <;>
    simp [hp, afterReset, resetRegs, State.emits, statusWords, statusW1, statusW2, statusW3,
      State.withPhase, State.withAtr, State.withPatr, State.withFd, sessionCleared, setFdWord,
      fdDefaults, defaultIndices]

/-- `power_off()` is the column "after power-off" of R41. -/
theorem powerOff_eq : powerOff s = afterPowerOff s := by
  unfold powerOff
  rw [clearSession_quiesce, emitStatus_eq]
  simp [afterPowerOff, powerOffRegs, State.emits, statusWords, statusW1, statusW2, statusW3,
    State.withPhase, sessionCleared]

/-! ### Handing bytes to the framer -/

/-- RESET_WT when armed, nothing otherwise (R136, R138). -/
theorem restartIfArmed_eq :
    restartIfArmed s =
      if s.wt.ticks = 0 then s
      else ({ s with wt := { s.wt with cnt := 0, half := false } } : State).emits
        [resetWtWord s.ident] := by
  unfold restartIfArmed wtArmed
  by_cases h : s.wt.ticks = 0 <;> simp [h, emit_resetWt]

/-- `send(b)` (R138). -/
theorem send_eq (b : Byte) : send b s = afterSend b s := by
  unfold send afterSend
  rw [emit_txByte, restartIfArmed_eq]
  by_cases h : s.wt.ticks = 0#24 <;> simp [h, State.emits, State.withSeq]

/-- Turning the line to transmit and asking for a notification (R113, R139, R185). -/
theorem startTransmit_eq : startTransmit s = afterStart s := by
  unfold startTransmit
  rw [emit_enable_tx, emit_requestIrq]
  simp [State.emits, State.withSeq, afterStart]

/-- `kick()` (R139). -/
theorem kick_eq : kick s = afterKick s := by
  unfold kick afterKick
  rw [startTransmit_eq]

/-! ### The TX queue (R62 to R64) -/

/-- The queue after a pop: its byte first, the waiting bytes after it (R63). A frame has at most
`TXQ_FRAME_MAX` bytes (R31), so the 12-bit offset does not wrap. -/
theorem waitingBytes_pop (q : TxQueue) (h : q.headOff.toNat < (q.frames.headD []).length)
    (hl : (q.frames.headD []).length ≤ 4096) :
    waitingBytes q = txqHeadByte q :: waitingBytes (txqPop q) := by
  rcases q with ⟨_ | ⟨f, fs⟩, off⟩
  · simp at h
  · simp only [List.headD_cons] at h hl
    have hf : (f ++ fs.flatten).drop off.toNat
        = f[off.toNat] :: (f.drop (off.toNat + 1) ++ fs.flatten) := by
      rw [List.drop_append_of_le_length (Nat.le_of_lt h), List.drop_eq_getElem_cons h]; rfl
    unfold waitingBytes txqHeadByte txqPop rdBuf
    simp only [List.flatten_cons, List.headD_cons, List.tail_cons, hf]
    rw [List.getD_eq_getElem _ _ h]
    by_cases he : off.toNat + 1 = f.length
    · simp [he]
    · have ho : (off + 1).toNat = off.toNat + 1 := by
        rw [BitVec.toNat_add]; simp; omega
      simp only [he, if_false, List.flatten_cons, ho]
      rw [List.drop_append_of_le_length (by omega)]

/-- An append adds its bytes at the end (R62); nothing waits after a flush (R64). -/
theorem waitingBytes_append (q : TxQueue) (frame : List Byte)
    (h : q.headOff.toNat ≤ q.frames.flatten.length) :
    waitingBytes (txqAppend frame q) = waitingBytes q ++ frame := by
  simp [waitingBytes, txqAppend, List.drop_append_of_le_length h]

theorem waitingBytes_flush : waitingBytes txqFlush = [] := rfl

/-! ### Buffers (R61, R162) -/

theorem wrBuf_length (buf : List Byte) (i : Nat) (v : Byte) : (wrBuf buf i v).length = buf.length := by
  simp [wrBuf]

/-- A read after a write (R61). -/
theorem rdBuf_wrBuf (buf : List Byte) (i j : Nat) (v : Byte) (h : i < buf.length) :
    rdBuf (wrBuf buf i v) j = if i = j then v else rdBuf buf j := by
  unfold rdBuf wrBuf
  by_cases hij : i = j
  · subst hij; simp [List.getD_eq_getElem?_getD, h]
  · simp [List.getD_eq_getElem?_getD, List.getElem?_set_ne hij, hij]

theorem loadBuf_length (n : Nat) (bytes : List Byte) (h : bytes.length ≤ n) :
    (loadBuf n bytes).length = n := by
  simp [loadBuf]; omega

/-- The bytes, and zeros above them (R162). -/
theorem rdBuf_loadBuf (n i : Nat) (bytes : List Byte) (h : bytes.length ≤ n) :
    rdBuf (loadBuf n bytes) i = rdBuf bytes i := by
  unfold rdBuf loadBuf
  rw [List.take_of_length_le h]
  by_cases hi : i < bytes.length
  · simp [List.getD_eq_getElem?_getD, List.getElem?_append_left hi]
  · simp only [List.getD_eq_getElem?_getD, List.getElem?_append_right (Nat.le_of_not_lt hi),
      List.getElem?_eq_none (Nat.le_of_not_lt hi), List.getElem?_replicate]
    split <;> rfl

end Sys2Proof.Machine
end

