-- ==== Sys2Proof/Laws/Protocol.lean ====
section
/-! SUPPORT. What the steps of `RXB`, `TXRDY` and the start of a delivery do, once each, in the terms of
Sys2Proof/Safety.lean. -/

namespace Sys2Proof.Machine

/-- The release of RST starts the delivery (R113). -/
theorem startDelivery_eq (s : State) : startDelivery s = afterRelease s := by
  unfold startDelivery
  rw [emitStatus_eq, emit_enable_tx, emit_requestIrq]
  simp [afterRelease, deliveryRegs, State.emits, State.withPhase, State.withAtr, State.withSeq,
      State.withFr, statusWords, statusW1, statusW2, statusW3, rdBuf]

/-- `RECEIVING` (R131). -/
theorem receiving_iff (s : State) : receiving s = true ↔ Receives s := by
  unfold receiving Receives
  cases h : s.phase <;> simp

/-- The collection of a PPS request (R184). -/
theorem ppsAppend_eq (b : Byte) (p : PpsRegs) : ppsAppend b p = ppsRequestWith b p := by
  unfold ppsAppend ppsRequestWith
  have h1 : (p.reqLen + 1 = 2) ↔ p.reqLen = 1 := by
    constructor
    · intro h; have := congrArg (· - 1#3) h; simpa using this
    · rintro h; rw [h]; rfl
  have h2 : ppsExpectedLen b = 3 + (b.extractLsb' 4 1).setWidth 3 + (b.extractLsb' 5 1).setWidth 3 +
          (b.extractLsb' 6 1).setWidth 3 := by
    revert b; decide +kernel
  simp only [h1, h2, wrBuf]

/-- The retry count goes up by one (R135, R136). -/
theorem retryCnt_succ (s : State) : BitVec.ofNat 4 (s.seq.retryCnt.toNat + 1) = s.seq.retryCnt + 1 := by
    rw [BitVec.ofNat_add]; simp

/-- A `TXRDY` that gets past its first three steps searches for a byte (R133). -/
theorem txrdy_search (n : Bool) (s : State) (hp : exchangePhase s.phase = true)
    (ha : s.seq.txActive = true)
   (hn : (s.seq.txLastValid && n) = false) : txrdy n s = txFromAtr (txAck s) := by
  unfold txrdy
  rw [if_neg (by simp [hp]), if_neg (by simp [ha]), if_neg (by simp [hn])]

/-- Step 3 of `TXRDY` (R133). -/
theorem txAck_eq (s : State) : txAck s = acknowledged s := by
  unfold txAck acknowledged
  rcases s with ⟨id, ph, ln, atr, patr, fd, wt, pps, ⟨rc, tl, tv, ta⟩, _⟩
  cases tv <;> simp [State.withSeq]

/-- Step 5 of `TXRDY` (R133). -/
theorem txIdle_eq (s : State) : txIdle s = afterTxIdle s := by
  unfold txIdle afterTxIdle
  rw [emit_enable_rx]; rfl

/-- The queue in `TPDU_EXCHANGE` (R133). -/
theorem txFromQueue_eq (s : State) (h : s.phase = .tpduExchange) : txFromQueue s = afterQueue s := by
  unfold txFromQueue afterQueue
  rcases hf : s.txq.frames with _ | ⟨f, fs⟩
  · simp [txIdle_eq]
  · simp only [h, true_and, ne_eq, reduceCtorEq, not_false_eq_true, if_true]
    rw [send_eq, retStatus_eq]
    simp [txqHeadByte, hf, rdBuf, txqPop, queuePopped, State.withTxq, statusCode]
    split <;> simp_all

/-- The queue is not looked at in another phase (R133). -/
theorem txFromQueue_idle (s : State) (h : s.phase ≠ .tpduExchange) : txFromQueue s = afterTxIdle s := by
  unfold txFromQueue
  rw [if_neg (by simp [h]), txIdle_eq]


/-- The end of the ATR (R165). -/
theorem atrComplete_eq (s : State) : atrComplete s = atrEnded s := by
  unfold atrComplete atrEnded
  rw [emit_updateWt]
  rcases s with ⟨id, ph, ln, ⟨ab, al, ai, ad, ap⟩, _⟩
  cases ap <;> simp [State.withAtr, waitArmed, State.emits, emitStatus_eq, enterPhase, State.withPhase,
      statusWords, statusW1, statusW2, statusW3]

/-- The end of the PPS response (R187). -/
theorem ppsComplete_eq (s : State) : ppsComplete s = ppsEnded s := by
  unfold ppsComplete ppsEnded emitSetFd
  rw [emit_waitTxIdle]
  dsimp only
  rw [emit_setFd]
  dsimp only
  rw [emit_updateWt]
  simp [State.withFd, waitArmed, State.emits, emitStatus_eq, enterPhase, State.withPhase,
      State.withPps, statusWords, statusW1, statusW2, statusW3, setFdWord]

end Sys2Proof.Machine
end

