-- ==== Sys2Proof/Laws/Invariant.lean ====
section
/-! SUPPORT. What the shared operations do to the invariant of Sys2Proof/Safety.lean: one lemma per operation,
for the proof that every step keeps it. -/

namespace Sys2Proof.Machine

variable {s : State}

/-- The part of the invariant that does not look at `PHASE`: what a reset, power-off or halt starts from. -/
structure Stored (s : State) : Prop where
  heldAtr : s.atr.len.toNat ≤ s.config.atrMax ∧ atrValid s.config s.atr.buf s.atr.len.toNat = true
  pendingAtr : s.patr.pending = true → atrValid s.config s.patr.buf s.patr.len.toNat = true
  divider : s.eng.engF = fOf s.config s.fd.fi ∧ s.eng.engD = dOf s.config s.fd.di
  headOff :
    if s.txq.frames = [] then s.txq.headOff = 0
    else s.txq.headOff.toNat < (s.txq.frames.headD []).length
  atrBuf :
    s.atr.buf.length = s.config.atrMax ∧ ∀ i, s.atr.len.toNat ≤ i → rdBuf s.atr.buf i = 0
  patrBuf :
    s.patr.buf.length = s.config.atrMax ∧ ∀ i, s.patr.len.toNat ≤ i → rdBuf s.patr.buf i = 0
  ppsBufs : s.pps.req.length = 6 ∧ s.pps.resp.length = 6
  supported :
    fdSupported s.config s.fd.fi s.fd.di = true ∧ fdSupported s.config s.fd.nfi s.fd.ndi = true
  ppsLens :
    s.pps.reqLen.toNat ≤ 6 ∧ s.pps.respLen.toNat ≤ 6 ∧ s.pps.respIdx.toNat ≤ s.pps.respLen.toNat
  retry : s.seq.retryCnt.toNat ≤ s.config.parityRetryBudget
  capacity :
    s.txq.frames.length ≤ s.config.txqFramesMax ∧
      ∀ f ∈ s.txq.frames, 1 ≤ f.length ∧ f.length ≤ s.config.txqFrameMax
  config : configLegal s.config = true

/-- The invariant contains its phase-free part. -/
theorem Inv.stored {s : State} (h : Inv s) : Stored s :=
  ⟨h.1.1, h.1.2, h.1.3, h.1.13, h.2.1, h.2.2, h.2.3, h.2.4, h.2.5, h.2.10.1,
    h.bounded.capacity, h.bounded.config⟩

/-- The invariant looks at neither the identity nor the ports. -/
theorem Inv.of_groups {s t : State} (h : Inv s) (h2 : t.phase = s.phase)
    (h3 : t.lines = s.lines) (h4 : t.atr = s.atr) (h5 : t.patr = s.patr) (h6 : t.fd = s.fd)
    (h7 : t.wt = s.wt) (h8 : t.pps = s.pps) (h9 : t.seq = s.seq) (h10 : t.err = s.err)
    (h11 : t.txq = s.txq) (h12 : t.line = s.line) (h13 : t.fr = s.fr) (h14 : t.eng = s.eng)
    (h15 : t.config = s.config) : Inv t := by
  rcases s with ⟨⟩; rcases t with ⟨⟩
  simp only at h2 h3 h4 h5 h6 h7 h8 h9 h10 h11 h12 h13 h14 h15
  subst h2 h3 h4 h5 h6 h7 h8 h9 h10 h11 h12 h13 h14 h15
  exact ⟨⟨h.1.1, h.1.2, h.1.3, h.1.4, h.1.5, h.1.6, h.1.7, h.1.8, h.1.9, h.1.10, h.1.11, h.1.12,
      h.1.13⟩,
   ⟨h.2.1, h.2.2, h.2.3, h.2.4, h.2.5, h.2.6, h.2.7, h.2.8, h.2.9, h.2.10, h.2.11, h.2.12, h.2.13,
       h.2.14, h.2.15, h.2.16, h.2.17, h.2.18, h.2.19, h.2.20⟩⟩

/-- Outputs are no part of the invariant (R42). -/
theorem Inv.emits {s : State} (h : Inv s) (w) : Inv (s.emits w) :=
  h.of_groups rfl rfl rfl rfl rfl rfl rfl rfl rfl rfl rfl rfl rfl rfl

/-- Return values are no part of it either. -/
theorem Inv.returns {s : State} (h : Inv s) (w) : Inv (s.returns w) :=
  h.of_groups rfl rfl rfl rfl rfl rfl rfl rfl rfl rfl rfl rfl rfl rfl

/-- `halt` establishes the invariant under power with RST released (R142, R288). -/
theorem afterHalt_inv {s : State} {c : ErrCause} (h : Stored s) (hv : s.lines.vcc = true)
    (hr : s.lines.rst = false)
    (hc : c ≠ .none) (hf : s.wt.full = true → c = .wtExpired) : Inv (afterHalt c s) := by
  apply Inv.emits
  obtain ⟨a1, a2, a3, a4, a5, a6, a7, a8, a9, a10, a11, a12⟩ := h
  refine ⟨⟨a1, a2, a3, ?_, ?_, ?_, ?_, ?_, ?_, ?_, ?_, ?_, a4⟩, ⟨a5, a6, a7, a8, a9, ?_, ?_, ?_, ?_,
      ⟨a10, ?_⟩, ?_, ?_, ?_, ?_, ?_, ?_, ?_, ?_, a11, a12⟩⟩
  all_goals clear a1 a2 a3 a4 a5 a6 a7 a8 a9 a10 a11
  all_goals simp [haltRegs, exchangePhase, quietLine, quietFramer, midDelivery, hv, hr, hc]
  exact hf

/-- The reset event establishes the invariant under power (R140). -/
theorem afterReset_inv {s : State} (h : Stored s) (hv : s.lines.vcc = true) : Inv (afterReset s) := by
  apply Inv.emits
  obtain ⟨a1, a2, a3, a4, a5, a6, a7, a8, a9, a10, a11, a12⟩ := h
  have hb : (resetRegs s).atr.len.toNat ≤ s.config.atrMax ∧
      atrValid s.config (resetRegs s).atr.buf (resetRegs s).atr.len.toNat = true ∧
     ((resetRegs s).atr.buf.length = s.config.atrMax ∧ ∀ i, (resetRegs s).atr.len.toNat ≤ i →
         rdBuf (resetRegs s).atr.buf i = 0) := by
    simp only [resetRegs]
    rcases hp : s.patr.pending with _ | _
    · exact ⟨a1.1, a1.2, a5⟩
    · exact ⟨atrValid_length (a2 hp), a2 hp, a6⟩
  have hq : (resetRegs s).patr.pending = false := rfl
  have hc := inRange_of_legal a12
  have hd := hc.default_supported
  have hbud : 0 < s.config.parityRetryBudget := hc.budget_least
  refine ⟨⟨⟨hb.1, hb.2.1⟩, (fun h => by rw [hq] at h; cases h), ⟨rfl, rfl⟩, ?_, ?_, ?_, ?_, ?_, ?_, ?_,
      ?_, ?_, ?_⟩, ⟨hb.2.2, a6, ?_, ⟨hd, hd⟩, ?_, ?_, ?_, ?_, ?_, ?_, ?_,
          ?_, ?_, ?_, ?_, ?_, ?_, ?_, ?_, a12⟩⟩
  all_goals clear hb hq hc hd a1 a2 a3 a4 a5 a6 a7 a8 a9 a10 a11
  all_goals simp [resetRegs, sessionCleared, exchangePhase, quietLine, quietFramer, midDelivery, hv,
      hbud]

/-- Power-off establishes the invariant (R141). -/
theorem afterPowerOff_inv {s : State} (h : Stored s) (hv : s.lines.vcc = false) :
    Inv (afterPowerOff s) := by
  apply Inv.emits
  obtain ⟨a1, a2, a3, a4, a5, a6, a7, a8, a9, a10, a11, a12⟩ := h
  have hbud : 0 < s.config.parityRetryBudget := (inRange_of_legal a12).budget_least
  refine ⟨⟨a1, a2, a3, ?_, ?_, ?_, ?_, ?_, ?_, ?_, ?_, ?_, ?_⟩, ⟨a5, a6, ?_, a8, ?_, ?_, ?_, ?_, ?_,
      ?_, ?_, ?_, ?_, ?_, ?_, ?_, ?_, ?_, ?_, a12⟩⟩
  all_goals clear a1 a2 a3 a4 a5 a6 a7 a8 a9 a10 a11
  all_goals simp [powerOffRegs, sessionCleared, exchangePhase, quietLine, quietFramer, midDelivery, hv,
      hbud]

/-- `CONTRACT_ERR` is no part of the invariant. -/
theorem contractErrSet_inv (h : Inv s) : Inv (contractErrSet s) :=
  ⟨⟨h.1.1, h.1.2, h.1.3, h.1.4, h.1.5, h.1.6, h.1.7, h.1.8, h.1.9, h.1.10, h.1.11, h.1.12, h.1.13⟩,
   ⟨h.2.1, h.2.2, h.2.3, h.2.4, h.2.5, h.2.6, h.2.7, h.2.8, h.2.9, h.2.10, h.2.11, h.2.12, h.2.13,
       h.2.14, h.2.15, h.2.16, h.2.17, h.2.18, h.2.19, h.2.20⟩⟩

/-- Nor is `CLK`. -/
theorem Inv.withClk (h : Inv s) (a) : Inv { s with lines := { s.lines with clk := a } } :=
  ⟨⟨h.1.1, h.1.2, h.1.3, h.1.4, h.1.5, h.1.6, h.1.7, h.1.8, h.1.9, h.1.10, h.1.11, h.1.12, h.1.13⟩,
   ⟨h.2.1, h.2.2, h.2.3, h.2.4, h.2.5, h.2.6, h.2.7, h.2.8, h.2.9, h.2.10, h.2.11, h.2.12, h.2.13,
       h.2.14, h.2.15, h.2.16, h.2.17, h.2.18, h.2.19, h.2.20⟩⟩

/-- Latches that agree with the phase (R40 e). -/
theorem Inv.withLatches (h : Inv s) (v r) (h5 : exchangePhase s.phase = true → v = true ∧ r = false)
    (h6 : s.phase = .resetAsserted ∨ s.phase = .errorHalt → v = true)
    (h7 : s.phase = .poweredOff → ¬ (v = true ∧ r = true))
    (h18 : s.phase = .errorHalt → r = false) :
    Inv { s with lines := { s.lines with vcc := v, rst := r } } :=
  ⟨⟨h.1.1, h.1.2, h.1.3, h.1.4, h5, h6, h7, h.1.8, h.1.9, h.1.10, h.1.11, h.1.12, h.1.13⟩,
   ⟨h.2.1, h.2.2, h.2.3, h.2.4, h.2.5, h.2.6, h.2.7, h.2.8, h.2.9, h.2.10, h.2.11, h.2.12, h.2.13,
       h.2.14, h.2.15, h.2.16, h.2.17, h18, h.2.19, h.2.20⟩⟩

/-- The latches are no part of `Stored`. -/
theorem Stored.withLines (h : Stored s) (l) : Stored { s with lines := l } :=
  ⟨h.1, h.2, h.3, h.4, h.5, h.6, h.7, h.8, h.9, h.10, h.11, h.12⟩

/-- The start of a delivery keeps the invariant (R113). -/
theorem afterRelease_inv (h : Inv s) (hp : s.phase = .resetAsserted) (hr : s.lines.rst = false) :
    Inv (afterRelease s) := by
  apply Inv.emits
  have h17 := h.2.17 (by simp [hp, exchangePhase])
  have hv := h.1.6 (Or.inl hp)
  have h8 := h.2.8 (by simp [hp]) (by simp [hp])
  have ht : s.wt.ticks = 0#24 := by
    have := h.1.4; simpa [hp] using this
  have h10 := h.2.10.2 (by simp [hp])
  have h11 : s.err.cause = .none := by have := h.2.11; simpa [hp] using this
  have h14 : s.wt.full = false := by
    cases hf : s.wt.full with
    | false => rfl
    | true => have := h.2.14 hf; simp [hp] at this
  refine ⟨⟨h.1.1, h.1.2, h.1.3, ?_, ?_, ?_, ?_, ?_, ?_, ?_, ?_, ?_, h.1.13⟩,
   ⟨h.2.1, h.2.2, h.2.3, h.2.4, h.2.5, ?_, ?_, ?_, ?_, ⟨h.2.10.1, fun _ => h10⟩, ?_, h.2.12, h.2.13,
       ?_, ?_, ?_, ?_, ?_, h.2.19, h.2.20⟩⟩
  all_goals simp [deliveryRegs, exchangePhase, midDelivery, hv, hr, ht, h8, h11, h14]
  · rw [h17.2]; simp [quietFramer]
  · rw [h17.1]; simp [quietLine]

/-- A count below the value in force (R236). -/
theorem Inv.withWait (h : Inv s) (w : WaitRegs) (ht : w.ticks = s.wt.ticks) (hf : w.full = s.wt.full)
   (hc : if w.ticks = 0 then w.cnt = 0 else w.cnt.toNat < w.ticks.toNat) : Inv { s with wt := w } :=
  ⟨⟨h.1.1, h.1.2, h.1.3, by simp only [ht]; exact h.1.4, h.1.5, h.1.6, h.1.7, h.1.8, h.1.9, h.1.10,
      h.1.11, h.1.12, h.1.13⟩,
   ⟨h.2.1, h.2.2, h.2.3, h.2.4, h.2.5, h.2.6, h.2.7, h.2.8, h.2.9, h.2.10, h.2.11, hc,
       by simp only [ht]; exact h.2.13, by simp only [hf]; exact h.2.14, h.2.15, h.2.16, h.2.17,
           h.2.18, h.2.19, h.2.20⟩⟩

/-- A restarted count is below its value. -/
theorem restarted_count_below (t : BitVec 24) : if t = 0 then (0 : BitVec 24) = 0 else
    (0 : BitVec 24).toNat < t.toNat := by
  split
  · rfl
  · rename_i h
    have : t.toNat ≠ 0 := fun hx => h (BitVec.eq_of_toNat_eq hx)
    simp; omega

/-- RESET_WT keeps the invariant (R217). -/
theorem waitRestarted_inv (h : Inv s) : Inv (waitRestarted s) := by
  exact Inv.withWait h { s.wt with cnt := 0, half := false } rfl rfl (restarted_count_below _)

/-- The retry count and the last byte may change within the budget. -/
theorem Inv.withSeqRegs (h : Inv s) (q : SeqRegs) (ha : q.txActive = s.seq.txActive)
    (h3 : q.retryCnt.toNat ≤ s.config.parityRetryBudget)
    (h2 : s.phase ≠ .errorHalt → q.retryCnt.toNat < s.config.parityRetryBudget) : Inv { s with seq := q } :=
  ⟨⟨h.1.1, h.1.2, h.1.3, h.1.4, h.1.5, h.1.6, h.1.7, by simp only [ha]; exact h.1.8,
      by simp only [ha]; exact h.1.9, h.1.10, h.1.11, h.1.12, h.1.13⟩,
   ⟨h.2.1, h.2.2, h.2.3, h.2.4, h.2.5, h.2.6, by simp only [ha]; exact h.2.7, h.2.8,
       by simp only [ha]; exact h.2.9, ⟨h3, h2⟩, h.2.11, h.2.12, h.2.13, h.2.14, h.2.15, h.2.16,
           h.2.17, h.2.18, h.2.19, h.2.20⟩⟩

/-- A legal budget is not 0 (R7). -/
theorem Inv.budget_pos (h : Inv s) : 0 < s.config.parityRetryBudget :=
  (inRange_of_legal h.2.20).budget_least

/-- A received byte restarts the count (R132). -/
theorem afterRxRestart_inv (h : Inv s) : Inv (afterRxRestart s) := (waitRestarted_inv h).emits _

/-- A good byte clears the retry count (R132). -/
theorem afterRxGood_inv (h : Inv s) : Inv (afterRxGood s) :=
  afterRxRestart_inv (Inv.withSeqRegs h _ rfl (by simp) (fun _ => by simpa using h.budget_pos))

/-- The receiving states are in the exchange phases (R131). -/
theorem Receives.exchange (h : Receives s) : exchangePhase s.phase = true := by
  rcases h with h | h | h <;> simp [h, exchangePhase]

/-- `WT_FULL` is not seen in the exchange phases. -/
theorem Inv.not_expired (h : Inv s) (hp : exchangePhase s.phase = true) : s.wt.full = false := by
  cases hf : s.wt.full with
  | false => rfl
  | true => have := (h.2.14 hf).1; simp [this, exchangePhase] at hp

/-- A halt from an exchange phase. -/
theorem afterHalt_inv_of_exchange (h : Inv s) (hp : exchangePhase s.phase = true) (c)
    (hc : c ≠ ErrCause.none) : Inv (afterHalt c s) :=
  afterHalt_inv h.stored (h.1.5 hp).1 (h.1.5 hp).2 hc
      (fun hf => by rw [Inv.not_expired h hp] at hf; cases hf)

/-- An exchange phase is not the halt. -/
theorem exchange_ne_halt (hp : exchangePhase s.phase = true) : s.phase ≠ .errorHalt := by
  intro h; rw [h] at hp; cases hp

/-- The line may be turned to transmit when a byte is there to send (R139, R185). -/
theorem afterStart_inv (h : Inv s) (hp : exchangePhase s.phase = true)
   (h7 : s.phase = .ppsNegotiation → s.pps.respLen ≠ 0) (h9 : s.phase = .atrDelivery →
       s.atr.done = false) : Inv (afterStart s) := by
  apply Inv.emits
  refine ⟨⟨h.1.1, h.1.2, h.1.3, h.1.4, h.1.5, h.1.6, h.1.7, ?_, ?_, ?_, h.1.11, h.1.12, h.1.13⟩,
      ⟨h.2.1, h.2.2, h.2.3, h.2.4, h.2.5, h.2.6, ?_, h.2.8, ?_, h.2.10, h.2.11, h.2.12, h.2.13, h.2.14,
          h.2.15, h.2.16, ?_, h.2.18, h.2.19, h.2.20⟩⟩
  · simp [hp]
  · simp
  · simp
  · intro hx; simpa using h7 hx
  · intro hx; simpa using h9 hx
  · intro hx; (have hx : exchangePhase s.phase = false := hx); rw [hp] at hx; cases hx

/-- `kick` keeps the invariant (R139). -/
theorem afterKick_inv (h : Inv s) : Inv (afterKick s) := by
  unfold afterKick
  split
  · rename_i hc
    exact afterStart_inv h (by simp [hc.1, exchangePhase]) (by simp [hc.1]) (by simp [hc.1])
  · exact h

/-- An acknowledgement keeps the invariant (R133). -/
theorem acknowledged_inv (h : Inv s) : Inv (acknowledged s) := by
  have h10 := h.2.10
  refine Inv.withSeqRegs h _ rfl ?_ ?_
  · dsimp only; split
    · simp
    · exact h10.1
  · intro hh; dsimp only; split
    · simpa using h.budget_pos
    · exact h10.2 hh

/-- `send` keeps the invariant (R138). -/
theorem afterSend_inv (h : Inv s) (ha : s.seq.txActive = true) (b) : Inv (afterSend b s) := by
  apply Inv.emits
  have h1 : Inv { s with seq := { s.seq with txLast := b, txLastValid := true, txActive := true } } :=
    Inv.withSeqRegs h _ ha.symm h.2.10.1 h.2.10.2
  have h2 : Inv { s with
      seq := { s.seq with txLast := b, txLastValid := true, txActive := true }
      wt := if s.wt.ticks = 0 then s.wt else { s.wt with cnt := 0, half := false } } := by
    refine Inv.withWait h1 _ ?_ ?_ ?_
    · dsimp only; split <;> rfl
    · dsimp only; split <;> rfl
    · dsimp only
      by_cases h0 : s.wt.ticks = 0
      · simp only [h0, if_true]; have := h.2.12; rw [if_pos h0] at this; exact this
      · rw [if_neg h0]; exact restarted_count_below _
  have hd : s.line.dir = 2 := h.1.9.1 ha
  have hp : exchangePhase s.phase = true := by
    cases hx : exchangePhase s.phase with
    | true => rfl
    | false => have := h.1.8; rw [hx] at this; rw [this] at hd; simp at hd
  exact ⟨⟨h2.1.1, h2.1.2, h2.1.3, h2.1.4, h2.1.5, h2.1.6, h2.1.7, h2.1.8, h2.1.9, fun _ => hd, h2.1.11,
      h2.1.12, h2.1.13⟩,
   ⟨h2.2.1, h2.2.2, h2.2.3, h2.2.4, h2.2.5, h2.2.6, h2.2.7, h2.2.8, h2.2.9, h2.2.10, h2.2.11, h2.2.12,
       h2.2.13, h2.2.14, h2.2.15, h2.2.16,
           (fun hx => absurd (show exchangePhase s.phase = false from hx) (by rw [hp]; simp)), h2.2.18,
               h2.2.19, h2.2.20⟩⟩

/-- The transmitter runs in the exchange phases only. -/
theorem Inv.active_exchange (h : Inv s) (ha : s.seq.txActive = true) :
    exchangePhase s.phase = true := by
  have hd : s.line.dir = 2 := h.1.9.1 ha
  cases hx : exchangePhase s.phase with
  | true => rfl
  | false => have := h.1.8; rw [hx] at this; rw [this] at hd; simp at hd

/-- The line may be turned to receive in `TPDU_EXCHANGE` (R133 step 5). -/
theorem afterTxIdle_inv (h : Inv s) (hp : s.phase = .tpduExchange) : Inv (afterTxIdle s) := by
  apply Inv.returns; apply Inv.emits
  refine ⟨⟨h.1.1, h.1.2, h.1.3, h.1.4, h.1.5, h.1.6, h.1.7, ?_, ?_, ?_, h.1.11, h.1.12, h.1.13⟩,
   ⟨h.2.1, h.2.2, h.2.3, h.2.4, h.2.5, h.2.6, ?_, h.2.8, ?_, h.2.10, h.2.11, h.2.12, h.2.13, h.2.14,
       h.2.15, h.2.16, ?_, h.2.18, h.2.19, h.2.20⟩⟩
  all_goals simp [hp, exchangePhase]

/-- A look at the queue keeps the invariant (R63, R133). -/
theorem afterQueue_inv (h : Inv s) (hp : s.phase = .tpduExchange) (ha : s.seq.txActive = true) :
    Inv (afterQueue s) := by
  unfold afterQueue
  split
  · exact afterTxIdle_inv h hp
  · rename_i f fs hf
    apply Inv.returns
    have h13 := h.1.13
    have h19 := h.2.19
    rw [hf] at h13 h19
    have h13 : s.txq.headOff.toNat < f.length := by simpa using h13
    have h19a : fs.length + 1 ≤ s.config.txqFramesMax := h19.1
    have hfl := h19.2 f (by simp)
    have hfl2 : f.length ≤ 4095 :=
      le_trans hfl.2 (inRange_of_legal h.2.20).frame_most
    refine afterSend_inv (s := { s with txq := queuePopped s.txq }) ?_ ha _
    refine ⟨⟨h.1.1, h.1.2, h.1.3, h.1.4, h.1.5, h.1.6, h.1.7, h.1.8, h.1.9, h.1.10, h.1.11, h.1.12, ?_⟩,
      ⟨h.2.1, h.2.2, h.2.3, h.2.4, h.2.5, h.2.6, h.2.7, h.2.8, h.2.9, h.2.10, h.2.11, h.2.12, h.2.13,
          h.2.14, h.2.15, h.2.16, h.2.17, h.2.18, ?_, h.2.20⟩⟩
    · dsimp only
      unfold queuePopped; rw [hf]; dsimp only
      split
      · dsimp only
        split
        · rfl
        · rename_i hne
          rcases fs with _ | ⟨g, gs⟩
          · exact absurd rfl hne
          · have := h19.2 g (by simp)
            show 0 < g.length; omega
      · rename_i hne
        rw [if_neg (by simp)]
        show (s.txq.headOff + 1).toNat < f.length
        rw [BitVec.toNat_add]; simp; omega
    · dsimp only
      unfold queuePopped; rw [hf]; dsimp only
      split
      · exact ⟨by show fs.length ≤ s.config.txqFramesMax; omega, fun g hg => h19.2 g (by simp [hg])⟩
      · exact h19

/-- A supported pair has a D (R182). -/
theorem supported_d {c : Config} (f d : BitVec 4) (h : fdSupported c f d = true) : dOf c d ≠ 0 :=
  ((fdSupported_iff c f d).1 h).2.1

/-- `WTHALF` keeps the invariant (R230). -/
theorem wthalf_inv (h : Inv s) : Inv (wthalf s) := by
  unfold wthalf
  split
  · rw [emitStatus_eq]; apply Inv.emits
    exact Inv.withWait h { s.wt with half := true } rfl rfl h.2.12
  · exact contractErrSet_inv h

/-- `WTEXP` keeps it (R231). -/
theorem wtexp_inv (h : Inv s) : Inv (wtexp s) := by
  unfold wtexp
  split
  · rename_i ha
    have ha : s.wt.ticks ≠ 0 := by simpa [wtArmed] using ha
    have hp : exchangePhase s.phase = true := by
      rcases (h.1.4.1 ha) with h | h | h <;> simp [h, exchangePhase]
    rw [halt_eq]
    have hs : Stored (s.withWt { s.wt with full := true }) := ⟨h.1.1, h.1.2, h.1.3, h.1.13, h.2.1,
        h.2.2, h.2.3, h.2.4, h.2.5, h.2.10.1, h.2.19, h.2.20⟩
    exact afterHalt_inv hs (h.1.5 hp).1 (h.1.5 hp).2 (by simp) (fun _ => rfl)
  · split
    · exact h
    · exact contractErrSet_inv h

/-- `GVIOL` keeps it (R232). -/
theorem gviol_inv (h : Inv s) : Inv (gviol s) := by
  unfold gviol
  split
  · rw [halt_eq]; exact afterHalt_inv_of_exchange h ‹_› _ (by simp)
  · exact contractErrSet_inv h

/-- Framer registers that fit the mode, in an exchange phase. -/
theorem Inv.withFramer (h : Inv s) (hp : exchangePhase s.phase = true) (f : FramerRegs)
    (ht : f.thrValid = true → s.fr.thrValid = true)
  (hs : match f.mode with
    | .idle => f.slot = 0
    | .tx => f.slot.toNat ≤ 12 + s.config.extraGuardN
    | .rx => 1 ≤ f.slot.toNat ∧ f.slot.toNat ≤ 11) : Inv { s with fr := f } :=
  ⟨⟨h.1.1, h.1.2, h.1.3, h.1.4, h.1.5, h.1.6, h.1.7, h.1.8, h.1.9, fun hx => h.1.10 (ht hx), h.1.11,
      h.1.12, h.1.13⟩,
   ⟨h.2.1, h.2.2, h.2.3, h.2.4, h.2.5, h.2.6, h.2.7, h.2.8, h.2.9, h.2.10, h.2.11, h.2.12, h.2.13,
       h.2.14, hs, h.2.16, (fun hx => absurd (show exchangePhase s.phase = false from hx)
           (by rw [hp]; simp)), h.2.18, h.2.19, h.2.20⟩⟩

/-- Step 1 of `ETU` (R233). -/
theorem holdoffStep_inv (h : Inv s) : Inv (holdoffStep s) := by
  unfold holdoffStep
  split
  · rename_i hh
    by_cases hp : exchangePhase s.phase = true
    · exact Inv.withFramer h hp _ (fun x => x) h.2.15
    · have := h.2.17 (by simpa using hp)
      rw [this.2] at hh; simp [quietFramer] at hh
  · exact h

/-- Step 2 of `ETU` (R235). -/
theorem errsigStep_inv (h : Inv s) : Inv (errsigStep s) := by
  unfold errsigStep
  split
  · rename_i hh
    have hp : exchangePhase s.phase = true := by
      by_contra hp
      have := h.2.17 (by simpa using hp)
      rw [this.1] at hh; simp [quietLine] at hh
    have h16 := h.2.16
    have keep : ∀ l : LineCtl, l.dir = s.line.dir → (l.ioDrv = true ↔ l.errsigCnt = 0) →
        l.errsigCnt.toNat ≤ s.config.errSignalEtu → Inv { s with line := l } := by
      intro l hd hl hle
      exact ⟨⟨h.1.1, h.1.2, h.1.3, h.1.4, h.1.5, h.1.6, h.1.7, by simpa only [hd] using h.1.8,
          by simpa only [hd] using h.1.9, by simpa only [hd] using h.1.10, h.1.11, h.1.12, h.1.13⟩,
        ⟨h.2.1, h.2.2, h.2.3, h.2.4, h.2.5, h.2.6, h.2.7, h.2.8, h.2.9, h.2.10, h.2.11, h.2.12, h.2.13,
          h.2.14, h.2.15, ⟨hl, hle⟩,
          (fun hx => absurd (show exchangePhase s.phase = false from hx) (by rw [hp]; simp)),
          h.2.18, h.2.19, h.2.20⟩⟩
    have hsub : (s.line.errsigCnt - 1).toNat ≤ s.config.errSignalEtu := by
      refine le_trans ?_ h16.2
      rw [BitVec.toNat_sub_of_le (by rw [BitVec.le_def]; exact hh)]
      exact Nat.sub_le _ _
    dsimp only
    split
    · rename_i h0
      have h0 : s.line.errsigCnt - 1 = 0 := h0
      rw [emit_driveIo]
      apply Inv.emits
      exact keep { s.line with errsigCnt := s.line.errsigCnt - 1, ioDrv := true } rfl
        ⟨fun _ => h0, fun _ => rfl⟩ hsub
    · rename_i h0
      have h0 : ¬ s.line.errsigCnt - 1 = 0 := h0
      refine keep { s.line with errsigCnt := s.line.errsigCnt - 1 } rfl ⟨fun hx => ?_, fun hx => ?_⟩ hsub
      · have := h16.1.1 hx; rw [this] at hh; simp at hh
      · exact absurd hx h0
  · exact h

/-- The hold count is free. -/
theorem Inv.withHold (h : Inv s) (c) : Inv { s with eng := { s.eng with rstHoldCnt := c } } :=
  ⟨⟨h.1.1, h.1.2, h.1.3, h.1.4, h.1.5, h.1.6, h.1.7, h.1.8, h.1.9, h.1.10, h.1.11, h.1.12, h.1.13⟩,
   ⟨h.2.1, h.2.2, h.2.3, h.2.4, h.2.5, h.2.6, h.2.7, h.2.8, h.2.9, h.2.10, h.2.11, h.2.12, h.2.13,
       h.2.14, h.2.15, h.2.16, h.2.17, h.2.18, h.2.19, h.2.20⟩⟩

/-- Step 3 of `ETU` (R234). -/
theorem rstHoldStep_inv (h : Inv s) : Inv (rstHoldStep s) := by
  unfold rstHoldStep
  split
  · exact Inv.withHold h _
  · exact h

/-- The framer moves in the exchange phases only. -/
theorem Inv.mode_exchange (h : Inv s) (hm : s.fr.mode ≠ .idle) : exchangePhase s.phase = true := by
  by_contra hp
  have := h.2.17 (by simpa using hp)
  rw [this.2] at hm; simp [quietFramer] at hm

/-- The transmitter is served in the exchange phases only. -/
theorem Inv.servable_exchange (h : Inv s) (hs : txServable s = true) :
    exchangePhase s.phase = true := by
  by_contra hp
  have h8 := h.1.8
  rw [if_neg hp] at h8
  unfold txServable at hs
  rw [h8] at hs; simp at hs

/-- Step 5 of `ETU`, load (R208). -/
theorem txLoad_inv (h : Inv s) : Inv (txLoad s) := by
  unfold txLoad
  split
  · rename_i hc
    have hc : s.fr.thrValid = true ∧ txServable s = true := by simpa using hc
    exact Inv.withFramer h (Inv.servable_exchange h hc.2) _ (by simp)
      (by simp)
  · exact h

end Sys2Proof.Machine
end

