-- ==== Sys2Proof/Laws/Words.lean ====
section
/-! SUPPORT. Words: the fields of a command word (30_encoding.md R86),
    and the decoder on headers and data words
(R82, R84). -/

namespace Sys2Proof

open Sys2Proof.Machine

/-- The low part of an append. -/
theorem extractLsb_append_low {n m : Nat} (x : BitVec n) (y : BitVec m) :
    (x ++ y).extractLsb' 0 m = y := by
  apply BitVec.eq_of_getLsbD_eq; intro i hi
  simp [BitVec.getLsbD_append, hi]

/-- The high part of an append. -/
theorem extractLsb_append_high {n m : Nat} (x : BitVec n) (y : BitVec m) :
    (x ++ y).extractLsb' m n = x := by
  apply BitVec.eq_of_getLsbD_eq; intro i hi
  simp [BitVec.getLsbD_append, hi]

/-- A command word bit by bit (R86). -/
theorem cmdWord_getLsbD (c : BitVec 4) (ch : BitVec 2) (p : BitVec 24) (i : Nat) :
   (cmdWord c ch p).getLsbD i = if i < 24 then p.getLsbD i else if i < 26 then ch.getLsbD (i-24)
       else if i < 28 then false else c.getLsbD (i - 28) := by
  have h1 := BitVec.getLsbD_append (x := c ++ (0 : BitVec 2) ++ ch) (y := p) (i := i)
  have h2 := BitVec.getLsbD_append (x := c ++ (0 : BitVec 2)) (y := ch) (i := i - 24)
  have h3 := BitVec.getLsbD_append (x := c) (y := (0 : BitVec 2)) (i := i - 24 - 2)
  unfold cmdWord
  refine h1.trans ?_
  by_cases a : i < 24
  · simp [a]
  · rw [if_neg a, if_neg a, h2]
    by_cases b : i < 26
    · rw [if_pos (by omega), if_pos b]
    · rw [if_neg (by omega), if_neg b, h3]
      by_cases d : i < 28
      · rw [if_pos (by omega), if_pos d]; simp
      · rw [if_neg (by omega), if_neg d]; congr 1

/-- `cop` of a command word. -/
theorem cmdWord_cop (c : BitVec 4) (ch : BitVec 2) (p : BitVec 24) :
    (cmdWord c ch p).extractLsb' 28 4 = c := by
  apply BitVec.eq_of_getLsbD_eq; intro i hi
  rw [BitVec.getLsbD_extractLsb', cmdWord_getLsbD, if_neg (by omega), if_neg (by omega),
      if_neg (by omega)]
  simp [hi]

/-- `channel` of a command word. -/
theorem cmdWord_chan (c : BitVec 4) (ch : BitVec 2) (p : BitVec 24) :
    (cmdWord c ch p).extractLsb' 24 4 = ch.setWidth 4 := by
  apply BitVec.eq_of_getLsbD_eq; intro i hi
  rw [BitVec.getLsbD_extractLsb', cmdWord_getLsbD, if_neg (by omega)]
  by_cases h : i < 2
  · rw [if_pos (by omega)]; simp [hi]
  · rw [if_neg (by omega), if_pos (by omega)]
    simp [hi, BitVec.getLsbD_of_ge ch i (by omega)]

/-- The payload of a command word. -/
theorem cmdWord_payload (c : BitVec 4) (ch : BitVec 2) (p : BitVec 24) (k n : Nat) (h : k + n ≤ 24) :
    (cmdWord c ch p).extractLsb' k n = p.extractLsb' k n := by
  apply BitVec.eq_of_getLsbD_eq; intro i hi
  rw [BitVec.getLsbD_extractLsb', BitVec.getLsbD_extractLsb', cmdWord_getLsbD, if_pos (by omega)]

/-- An event of one word. -/
theorem decode_single (w : EventWord) (ws i) (h : decodeHeader w = some (.single i)) : decode (w :: ws)
    = .instr i ws := by
  simp only [decode, h]

/-- A `SETATR` header owes its data words. -/
theorem decode_setatr (w : EventWord) (ws n) (h : decodeHeader w = some (.setatr n)) : decode (w :: ws)
    = decodeData n ws .setatr := by
  simp only [decode, h]

/-- A `TXQAPP` header owes its data words. -/
theorem decode_txqapp (w : EventWord) (ws n) (h : decodeHeader w = some (.txqapp n)) : decode (w :: ws)
    = decodeData n ws .txqapp := by
  simp only [decode, h]

/-- A data word carries its byte (R84). -/
theorem dataWord_byte (b : Byte) : (dataWord b).byte = b ∧ (dataWord b).high8 = 0 := by
  constructor
  · exact extractLsb_append_low (n := 8) _ _
  · exact extractLsb_append_high (n := 8) (m := 8) _ _

/-- A data word is its byte (R84). -/
theorem dataWord_of_high8 (d : EventWord) (h : d.high8 = 0) : dataWord d.byte = d := by
  apply BitVec.eq_of_getLsbD_eq; intro i hi
  have := BitVec.getLsbD_append (x := (0 : BitVec 8)) (y := d.byte) (i := i)
  refine this.trans ?_
  by_cases h8 : i < 8
  · rw [if_pos h8]; simp [EventWord.byte, h8]
  · rw [if_neg h8]
    have := congrArg (fun v => v.getLsbD (i - 8)) h
    simp only [EventWord.high8, BitVec.getLsbD_extractLsb'] at this
    simp [show i - 8 < 8 by omega] at this
    rw [show 8 + (i - 8) = i by omega] at this
    simp [this]

/-- The data words of an encoding are read back (R82). -/
theorem decodeData_dataWords (bytes : List Byte) (rest : List EventWord) (mk) :
   decodeData bytes.length (bytes.map dataWord ++ rest) mk = .instr (mk bytes) rest := by
  have ht : (bytes.map dataWord ++ rest).take bytes.length = bytes.map dataWord := by
    rw [List.take_append_of_le_length (by simp)]; exact List.take_of_length_le (by simp)
  unfold decodeData
  rw [ht]
  have e : (bytes.map dataWord).any (fun d => d.high8 != 0) = false := by
    simp [List.any_eq_false, (dataWord_byte _).2]
  rw [e]
  simp [Function.comp_def, (dataWord_byte _).1]

end Sys2Proof
end

