-- ==== Sys2Proof/Laws/PerInstr.lean ====
section
/-! SUPPORT. Statements made event by event: the header word of an event selects that event's row of the table of
event words (30_encoding.md R83), and tells how many data words follow it (R84). -/

namespace Sys2Proof.Laws.HeaderSelectsItsRow

open Sys2Proof Sys2Proof.Machine

/-- A row selects a word when it selects the opcode and the rest. -/
theorem selects_append (m : String) (hi c a : BitVec 4) (lo d b : BitVec 12) :
    TableRow.selects ⟨m, c ++ d, a ++ b⟩ (hi ++ lo) = ((hi &&& a == c) && (lo &&& b == d)) := by
  have h : ((hi ++ lo) &&& (a ++ b) : BitVec 16) = (hi &&& a) ++ (lo &&& b) := by
    apply BitVec.eq_of_getLsbD_eq; intro i _
    simp only [BitVec.getLsbD_and, BitVec.getLsbD_append]
    split <;> rfl
  show ((hi ++ lo) &&& (a ++ b) == c ++ d) = _
  rw [h, Bool.eq_iff_iff]
  simp only [Bool.and_eq_true, beq_iff_eq]
  constructor
  · intro e
    exact ⟨by rw [← extractLsb_append_high (hi &&& a) (lo &&& b), e, extractLsb_append_high],
      by rw [← extractLsb_append_low (hi &&& a) (lo &&& b), e, extractLsb_append_low]⟩
  · rintro ⟨e1, e2⟩; rw [e1, e2]

/-- The table with opcode and rest apart. -/
theorem eventTable_split : eventTable =
  [⟨"INIT", 1#4 ++ 0#12, 15#4 ++ 0#12⟩, ⟨"IOCHG.VCC", 2#4 ++ 0#12, 15#4 ++ 0xFFE#12⟩, ⟨"IOCHG.RST",
      2#4 ++ 2#12, 15#4 ++ 0xFFE#12⟩,
    ⟨"IOCHG.CLK", 2#4 ++ 4#12, 15#4 ++ 0xFFE#12⟩, ⟨"RXB", 3#4 ++ 0#12, 15#4 ++ 0xE00#12⟩, ⟨"TXRDY",
        4#4 ++ 0#12, 15#4 ++ 0xFFE#12⟩,
    ⟨"WTHALF", 5#4 ++ 0#12, 15#4 ++ 0xFFF#12⟩, ⟨"WTEXP", 5#4 ++ 1#12, 15#4 ++ 0xFFF#12⟩, ⟨"SETATR",
        6#4 ++ 0#12, 15#4 ++ 0xF00#12⟩,
    ⟨"TXQAPP", 7#4 ++ 0#12, 15#4 ++ 0#12⟩, ⟨"GETTXQ", 8#4 ++ 0#12, 15#4 ++ 0xFFF#12⟩, ⟨"NEWTX",
        8#4 ++ 1#12, 15#4 ++ 0xFFF#12⟩,
    ⟨"REPSTAT", 8#4 ++ 2#12, 15#4 ++ 0xFFF#12⟩, ⟨"ETU", 9#4 ++ 0#12, 15#4 ++ 0xFFE#12⟩, ⟨"GVIOL",
        10#4 ++ 0#12, 15#4 ++ 0xFFF#12⟩] := rfl

/-- The mnemonic of the row a word selects. -/
def rowOf (w : EventWord) : Option String :=
  (eventTable.find? (fun r => r.selects w)).map TableRow.mnemonic

/-- A word with opcode 1 is an `INIT`. -/
theorem rowOf_init (n : BitVec 12) : rowOf (1#4 ++ n) = some "INIT" := by
  unfold rowOf
  rw [eventTable_split]
  simp only [List.find?_cons, selects_append, BitVec.and_zero, beq_self_eq_true]
  rfl

/-- A word with opcode 7 is a `TXQAPP`. -/
theorem rowOf_txqapp (n : BitVec 12) : rowOf (7#4 ++ n) = some "TXQAPP" := by
  unfold rowOf
  rw [eventTable_split]
  simp only [List.find?_cons, selects_append, BitVec.and_zero, beq_self_eq_true]
  rfl

/-- An `INIT` owes nothing. -/
theorem owedWords_init (n : BitVec 12) : owedWords (1#4 ++ n) = 0 := by
  have h : EventWord.op (1#4 ++ n) = 1#4 := extractLsb_append_high _ _
  simp only [owedWords, decodeHeader, h]
  rfl

/-- A `TXQAPP` owes the number of words in its other bits. -/
theorem owedWords_txqapp (n : BitVec 12) : owedWords (7#4 ++ n) = n.toNat := by
  have h : EventWord.op (7#4 ++ n) = 7#4 := extractLsb_append_high _ _
  have hn : EventWord.low12 (7#4 ++ n) = n := extractLsb_append_low _ _
  simp only [owedWords, decodeHeader, h, hn]
  rfl

/-- The word of an `INIT`, opcode and rest apart. -/
theorem init_word (slot tc uart : BitVec 2) (inep irqep : BitVec 3) :
    (1 : BitVec 4) ++ slot ++ tc ++ uart ++ inep ++ irqep =
      1#4 ++ (slot ++ tc ++ uart ++ inep ++ irqep) := by
  apply BitVec.eq_of_toNat_eq
  simp only [BitVec.toNat_append, BitVec.ofNat_eq_ofNat, BitVec.toNat_ofNat]
  simp [Nat.shiftLeft_or_distrib, Nat.or_assoc, ← Nat.shiftLeft_add]

/-- The header of an event selects its row, and owes the words that follow it. -/
def Statement (i : Instr) : Prop :=
  i.wellFormed = true →
    ∃ (w : EventWord) (ws : List EventWord),
      encode i = w :: ws ∧ rowOf w = some (mnemonicOf i) ∧ owedWords w = ws.length

theorem init (slot tc uart : BitVec 2) (inep irqep : BitVec 3) :
    Statement (.init slot tc uart inep irqep) := by
  refine fun _ => ⟨_, [], rfl, ?_, ?_⟩
  · rw [init_word]; exact rowOf_init _
  · rw [init_word]; exact owedWords_init _

theorem iochgVcc (active : Bool) : Statement (.iochgVcc active) :=
  fun _ => ⟨_, [], rfl, by cases active <;> decide, by cases active <;> decide⟩

theorem iochgRst (active : Bool) : Statement (.iochgRst active) :=
  fun _ => ⟨_, [], rfl, by cases active <;> decide, by cases active <;> decide⟩

theorem iochgClk (active : Bool) : Statement (.iochgClk active) :=
  fun _ => ⟨_, [], rfl, by cases active <;> decide, by cases active <;> decide⟩

theorem rxb (perr : Bool) (byte : Byte) : Statement (.rxb perr byte) := by
  have h : ∀ (perr : Bool) (byte : Byte),
      rowOf ((0x18 : BitVec 7) ++ BitVec.ofBool perr ++ byte) = some "RXB" ∧
        owedWords ((0x18 : BitVec 7) ++ BitVec.ofBool perr ++ byte) = 0 := by
    decide +kernel
  exact fun _ => ⟨_, [], rfl, (h perr byte).1, (h perr byte).2⟩

theorem txrdy (nack : Bool) : Statement (.txrdy nack) :=
  fun _ => ⟨_, [], rfl, by cases nack <;> decide, by cases nack <;> decide⟩

theorem wthalf : Statement .wthalf := fun _ => ⟨_, [], rfl, by decide, by decide⟩

theorem wtexp : Statement .wtexp := fun _ => ⟨_, [], rfl, by decide, by decide⟩

theorem setatr (bytes : List Byte) : Statement (.setatr bytes) := by
  intro hw
  have hl : bytes.length < 256 := by simpa [Instr.wellFormed] using hw
  have h : ∀ n : BitVec 8,
      rowOf ((0x60 : BitVec 8) ++ n) = some "SETATR" ∧ owedWords ((0x60 : BitVec 8) ++ n) = n.toNat :=
          by
    decide +kernel
  refine ⟨_, _, rfl, (h _).1, (h _).2.trans ?_⟩
  rw [List.length_map, BitVec.toNat_ofNat, Nat.mod_eq_of_lt hl]

theorem txqapp (bytes : List Byte) : Statement (.txqapp bytes) := by
  intro hw
  have hl : bytes.length < 4096 := by simpa [Instr.wellFormed] using hw
  refine ⟨_, _, rfl, rowOf_txqapp _, (owedWords_txqapp _).trans ?_⟩
  rw [List.length_map, BitVec.toNat_ofNat, Nat.mod_eq_of_lt hl]

theorem gettxq : Statement .gettxq := fun _ => ⟨_, [], rfl, by decide, by decide⟩

theorem newtx : Statement .newtx := fun _ => ⟨_, [], rfl, by decide, by decide⟩

theorem repstat : Statement .repstat := fun _ => ⟨_, [], rfl, by decide, by decide⟩

theorem etu (rdr : Bool) : Statement (.etu rdr) :=
  fun _ => ⟨_, [], rfl, by cases rdr <;> decide, by cases rdr <;> decide⟩

theorem gviol : Statement .gviol := fun _ => ⟨_, [], rfl, by decide, by decide⟩

end Sys2Proof.Laws.HeaderSelectsItsRow
end

