-- ==== Sys2Proof/Laws/Tick.lean ====
section
/-! SUPPORT. What the steps of an `ETU` do, once each, in the terms of Sys2Proof/Safety.lean (44_framer.md R200,
45_timers.md R233 to R236). -/

namespace Sys2Proof.Machine

variable (s : State)

/-- A counter above 0, as a word and as a number. -/
theorem counter_pos {n : Nat} (v : BitVec n) : 0 < v.toNat ↔ v ≠ 0 := by
  rw [Nat.pos_iff_ne_zero, ne_eq, ne_eq, not_iff_not]
  exact ⟨fun h => BitVec.eq_of_toNat_eq (by simpa using h), fun h => by rw [h]; simp⟩

/-- Step 1 (R233). -/
theorem holdoffStep_eq :
    holdoffStep s = { s with fr := { s.fr with holdoff := holdoffTick s.fr.holdoff } } := by
  unfold holdoffStep holdoffTick
  simp only [counter_pos]
  by_cases h : s.fr.holdoff = 0
  · rw [if_neg (by simpa using h), if_pos h, ← h]
  · rw [if_pos h, if_neg h]; rfl

/-- Step 2 (R235). -/
theorem errsigStep_eq :
    errsigStep s =
      ({ s with line := errsigTick s.line } : State).emits
        (if s.line.errsigCnt = 1 then [driveIoWord s.ident true] else []) := by
  unfold errsigStep errsigTick
  simp only [counter_pos]
  by_cases h : s.line.errsigCnt = 0
  · rw [if_neg (by simpa using h), if_pos h, if_neg (by rw [h]; decide)]
    simp [State.emits]
  · have h1 : (s.line.errsigCnt - 1 = 0) ↔ s.line.errsigCnt = 1 := by
      rw [sub_eq_zero]
    rw [if_pos h, if_neg h]
    simp only [State.withLine_line, h1]
    by_cases hc : s.line.errsigCnt = 1
    · rw [if_pos hc, if_pos hc, emit_driveIo]
      simp [State.withLine, hc]
    · rw [if_neg hc, if_neg hc]
      have hb : (s.line.errsigCnt == 1) = false := by simpa using hc
      simp only [hb, Bool.or_false]
      simp [State.withLine, State.emits]

/-- Step 3 (R234). -/
theorem rstHoldStep_eq :
    rstHoldStep s =
      { s with
        eng :=
          { s.eng with
            rstHoldCnt :=
              if s.phase = .resetAsserted ∧ s.lines.rst = true ∧ s.eng.rstHoldCnt ≠ 255 then
                s.eng.rstHoldCnt + 1
              else s.eng.rstHoldCnt } } := by
  unfold rstHoldStep
  have h255 : s.eng.rstHoldCnt.toNat < 255 ↔ s.eng.rstHoldCnt ≠ 255 := by
    have hlt := s.eng.rstHoldCnt.isLt
    constructor
    · intro h hx; rw [hx] at h; simp at h
    · intro h
      by_contra hx
      exact h (BitVec.eq_of_toNat_eq (by simp; omega))
  simp only [h255]
  split <;> rfl

/-- Steps 1 to 3. -/
theorem tickStart_eq : rstHoldStep (errsigStep (holdoffStep s)) = tickStart s := by
  rw [holdoffStep_eq, errsigStep_eq, rstHoldStep_eq]; rfl

/-- The transmitter can be served (R207, R208). -/
theorem txServable_eq : txServable s = transmitterFree s := by
  unfold txServable transmitterFree
  rw [Bool.eq_iff_iff]
  simp [and_assoc]

/-- Step 5, load (R208). -/
theorem txLoad_eq : txLoad s = afterLoad s := by
  unfold txLoad afterLoad
  rw [txServable_eq]
  simp only [Bool.and_eq_true]
  rfl

/-- Performing `TXRDY` on a created instance (R213). -/
theorem performed_txrdy (n : Bool) (h : s.ident.inited = true) : performed (.txrdy n) s = txrdy n s := by
  have he : exec (.txrdy n) s = .next (txrdy n s) := created_of_inited _ _ h
  unfold performed
  rw [he]

/-- Step 5 (R207, R208). -/
theorem serviced_eq (h : s.ident.inited = true) : txLoad (txNotify s) = serviced s := by
  unfold txNotify serviced
  rw [txServable_eq, txLoad_eq]
  simp only [Bool.and_eq_true]
  split
  · rw [performed_txrdy _ _ (by exact h)]; rfl
  · rfl

/-- `WTHALF` while armed (R230). -/
theorem wthalf_armed (h : s.wt.ticks ≠ 0) :
    wthalf s =
      ({ s with wt := { s.wt with half := true } } : State).emits
        (statusWords { s with wt := { s.wt with half := true } }) := by
  unfold wthalf wtArmed
  rw [if_pos (by simpa using h), emitStatus_eq]; rfl

/-- `WTEXP` while armed (R231). -/
theorem wtexp_armed (h : s.wt.ticks ≠ 0) :
    wtexp s = afterHalt .wtExpired { s with wt := { s.wt with full := true } } := by
  unfold wtexp wtArmed
  rw [if_pos (by simpa using h), halt_eq]; rfl

/-- The count of step 6 (R236). -/
theorem wtCount_eq (w : WaitRegs) :
    wtCount w = { w with cnt := if w.cnt = 0xFFFFFF then w.cnt else w.cnt + 1 } := by
  unfold wtCount
  have hlt := w.cnt.isLt
  by_cases h : w.cnt = 0xFFFFFF
  · rw [if_neg (by rw [h]; decide), if_pos h]
  · rw [if_pos, if_neg h]
    by_contra hx
    exact h (BitVec.eq_of_toNat_eq (by simp; omega))

/-- The half notification of step 6 (R236). -/
theorem wtHalfStep_armed (h : s.wt.ticks ≠ 0) :
    wtHalfStep s =
      if s.wt.half = false ∧ s.wt.ticks.toNat ≤ 2 * s.wt.cnt.toNat then
        ({ s with wt := { s.wt with half := true } } : State).emits
          (statusWords { s with wt := { s.wt with half := true } })
      else s := by
  unfold wtHalfStep halfReached
  rw [wthalf_armed s h]
  simp only [decide_eq_true_eq]

/-- The half notification keeps the value in force and the count. -/
theorem wtHalfStep_count :
    (wtHalfStep s).wt.ticks = s.wt.ticks ∧ (wtHalfStep s).wt.cnt = s.wt.cnt := by
  unfold wtHalfStep wthalf
  split
  · split <;> exact ⟨rfl, rfl⟩
  · exact ⟨rfl, rfl⟩

/-- The expiry of step 6 (R236). -/
theorem wtFullStep_armed (h : s.wt.ticks ≠ 0) :
    wtFullStep s =
      if s.wt.ticks.toNat ≤ s.wt.cnt.toNat then
        afterHalt .wtExpired { s with wt := { s.wt with full := true } }
      else s := by
  unfold wtFullStep fullReached
  rw [wtexp_armed s h]
  simp only [wtArmed, bne_iff_ne, ne_eq, h, not_false_eq_true, true_and, decide_eq_true_eq]

/-- Step 6 (R236). -/
theorem waitTick_eq : wtStep s = waitTick s := by
  unfold wtStep waitTick wtArmed
  by_cases h : s.wt.ticks = 0
  · rw [if_neg (by simp [h]), if_pos h]
  · rw [if_pos (by simpa using h), if_neg h, wtCount_eq]
    rw [wtFullStep_armed _ (by rw [(wtHalfStep_count _).1]; exact h), (wtHalfStep_count _).1,
      (wtHalfStep_count _).2, wtHalfStep_armed _ (by exact h)]
    rfl

/-- An `ETU` with the clock running (R200): the three first counters, the framer, the service of the
transmitter, the waiting time. `u` is what the framer gives. -/
theorem etu_eq (rdr : Bool) {u : State} (hi : s.ident.inited = true) (hc : s.lines.clk = true)
    (hu : framerStep (ioIn rdr s) s.line.ioDrv (tickStart s) = u) (hf : u.ident = s.ident) :
    exec (.etu rdr) s = .next (waitTick (serviced u)) := by
  have he : exec (.etu rdr) s = .next (etu rdr s) := created_of_inited _ _ hi
  rw [he, etu, if_pos hc, etuSteps, tickStart_eq, hu, serviced_eq _ (by rw [hf]; exact hi), waitTick_eq]

/-! What the first counters leave alone, and when there is nothing to serve. -/

@[simp] theorem tickStart_ident : (tickStart s).ident = s.ident := rfl
@[simp] theorem tickStart_phase : (tickStart s).phase = s.phase := rfl
@[simp] theorem tickStart_config : (tickStart s).config = s.config := rfl
@[simp] theorem tickStart_mode : (tickStart s).fr.mode = s.fr.mode := rfl
@[simp] theorem tickStart_slot : (tickStart s).fr.slot = s.fr.slot := rfl
@[simp] theorem tickStart_dir : (tickStart s).line.dir = s.line.dir := by
  show (errsigTick s.line).dir = _
  unfold errsigTick; split <;> rfl

/-- A busy transmitter is not served (R207, R208). -/
theorem serviced_busy (h : transmitterFree s = false) : serviced s = s := by
  unfold serviced afterLoad; simp [h]

/-- A halt leaves nothing for the rest of the tick (R142). -/
theorem waitTick_serviced_halt (c : ErrCause) :
    waitTick (serviced (afterHalt c s)) = afterHalt c s := by
  rw [serviced_busy _ (by unfold transmitterFree; simp [afterHalt, haltRegs, quietLine])]
  unfold waitTick; rw [if_pos]; rfl

/-! Ticks of the waiting time that do not expire (R236). -/

/-- Short of expiry the sixth step counts, and notifies at half. -/
theorem waitTick_below (h0 : s.wt.ticks ≠ 0) (hlt : s.wt.cnt.toNat + 1 < s.wt.ticks.toNat) :
    (s.wt.cnt + 1).toNat = s.wt.cnt.toNat + 1 ∧
      waitTick s =
        if s.wt.half = false ∧ s.wt.ticks.toNat ≤ 2 * (s.wt.cnt.toNat + 1) then
          ({ s with wt := { s.wt with cnt := s.wt.cnt + 1, half := true } } : State).emits
            (statusWords { s with wt := { s.wt with cnt := s.wt.cnt + 1, half := true } })
        else { s with wt := { s.wt with cnt := s.wt.cnt + 1 } } := by
  have hs := s.wt.ticks.isLt
  have hc : s.wt.cnt ≠ 0xFFFFFF := by
    intro hx; rw [hx] at hlt; simp at hlt; omega
  have hk : (s.wt.cnt + 1).toNat = s.wt.cnt.toNat + 1 := by
    rw [BitVec.toNat_add]; simp; omega
  refine ⟨hk, ?_⟩
  unfold waitTick
  rw [if_neg h0, if_neg hc]
  dsimp only
  rw [hk, if_neg (by omega)]

/-- Short of expiry the sixth step does not look at the framer. -/
theorem waitTick_framer (f : FramerRegs) (h : noExpiry 1 s) :
    waitTick { s with fr := f } = { waitTick s with fr := f } := by
  by_cases h0 : s.wt.ticks = 0
  · unfold waitTick; rw [if_pos h0, if_pos h0]
  · have hlt := h.resolve_left h0
    rw [(waitTick_below s h0 hlt).2, (waitTick_below { s with fr := f } h0 hlt).2]
    dsimp only
    split <;> rfl

/-- What the sixth step leaves alone, short of expiry. -/
theorem waitTick_frame (h : noExpiry 1 s) :
    (waitTick s).ident = s.ident ∧ (waitTick s).phase = s.phase ∧ (waitTick s).lines = s.lines ∧
      (waitTick s).line = s.line ∧ (waitTick s).fr = s.fr ∧ (waitTick s).config = s.config ∧
      (waitTick s).wt.ticks = s.wt.ticks ∧
      (s.wt.ticks ≠ 0 → (waitTick s).wt.cnt.toNat = s.wt.cnt.toNat + 1) := by
  by_cases h0 : s.wt.ticks = 0
  · unfold waitTick; rw [if_pos h0]; simp [h0]
  · obtain ⟨hk, he⟩ := waitTick_below s h0 (h.resolve_left h0)
    rw [he]
    split <;> exact ⟨rfl, rfl, rfl, rfl, rfl, rfl, rfl, fun _ => hk⟩

/-- The same for a number of ticks. -/
theorem waitTicks_frame (n : Nat) (h : noExpiry n s) :
    (waitTicks n s).ident = s.ident ∧ (waitTicks n s).phase = s.phase ∧
      (waitTicks n s).lines = s.lines ∧ (waitTicks n s).line = s.line ∧
      (waitTicks n s).fr = s.fr ∧ (waitTicks n s).config = s.config ∧
      (waitTicks n s).wt.ticks = s.wt.ticks ∧
      (s.wt.ticks ≠ 0 → (waitTicks n s).wt.cnt.toNat = s.wt.cnt.toNat + n) := by
  induction n with
  | zero => simp [waitTicks]
  | succ n ih =>
    have hn : noExpiry n s := h.imp id (fun h => by omega)
    obtain ⟨h1, h2, h3, h4, h5, h6, h7, h8⟩ := ih hn
    have hx : noExpiry 1 (waitTicks n s) := by
      unfold noExpiry
      rw [h7]
      by_cases h0 : s.wt.ticks = 0
      · exact Or.inl h0
      · rw [h8 h0]
        exact Or.inr (by rcases h with h | h; · exact absurd h h0
                         · omega)
    obtain ⟨g1, g2, g3, g4, g5, g6, g7, g8⟩ := waitTick_frame (waitTicks n s) hx
    refine ⟨g1.trans h1, g2.trans h2, g3.trans h3, g4.trans h4, g5.trans h5, g6.trans h6, g7.trans h7,
      fun h0 => ?_⟩
    show (waitTick (waitTicks n s)).wt.cnt.toNat = _
    rw [g8 (by rw [h7]; exact h0), h8 h0]; omega

/-- One tick more of a run that does not expire, the framer's registers beside it. -/
theorem waitTicks_succ (n : Nat) (f g : FramerRegs) (h : noExpiry (n + 1) s) :
    waitTick { ({ waitTicks n s with fr := f } : State) with fr := g } =
      { waitTicks (n + 1) s with fr := g } := by
  obtain ⟨-, -, -, -, -, -, h7, h8⟩ := waitTicks_frame s n (h.imp id (fun h => by omega))
  refine waitTick_framer (waitTicks n s) g ?_
  unfold noExpiry
  rw [h7]
  by_cases h0 : s.wt.ticks = 0
  · exact Or.inl h0
  · rw [h8 h0]
    exact Or.inr (by rcases h with h | h; · exact absurd h h0
                     · omega)

end Sys2Proof.Machine
end

