-- ==== Sys2Proof/Tests/Slice0.lean ====
section
/-! SUPPORT. Tests on fixed values, with the results the spec prints (its worked examples, 30_encoding.md R83 and R85,
42_atr.md R160, 95_test_vectors.md), and for every statement with hypotheses a state that meets them. -/

namespace Sys2Proof.Tests

open Sys2Proof Sys2Proof.Machine

/-! ### Helpers -/

/-- The next state of an outcome, if it has one. -/
def nextState (o : Host.Outcome State Fault Refusal) : Option State :=
  match o with
  | .next t => some t
  | .fault _ => none
  | .refused _ => none

/-- An outcome with a next state answers it. -/
theorem next_of_isSome {o : Host.Outcome State Fault Refusal} (h : (nextState o).isSome = true) :
    ∃ t, o = .next t := by
  cases o with
  | next t => exact ⟨t, rfl⟩
  | fault r => cases h
  | refused r => cases h

/-- The state an event gives, if it gives one. -/
def nextOf (i : Instr) (s : State) : Option State := nextState (exec i s)

/-- The words an event emits and the values it returns, from a state with empty output ports. -/
def outputs (i : Instr) (s : State) : Option (List CmdWord × List (BitVec 8)) :=
  (nextOf i s).map (fun t => (t.ports.cmds, t.ports.rets))

/-- Empty ports. -/
def noWords : Ports := { events := [], cmds := [], rets := [] }

/-- Just after `INIT 0, 0, 0, 2, 3`. -/
def handle : State := afterInit {} 0 0 0 2 3 noWords

/-- `RESET_ASSERTED` under power with the clock running, the hold time over. -/
def inReset : State :=
  { handle with
    phase := .resetAsserted
    lines := { vcc := true, rst := true, clk := true }
    eng := { handle.eng with rstHoldCnt := 2 } }

/-- `ATR_DELIVERY`, nothing sent yet. -/
def delivering : State :=
  { handle with
    phase := .atrDelivery
    lines := { vcc := true, rst := false, clk := true }
    seq := { handle.seq with txActive := true }
    line := { handle.line with dir := 2 }
    fr := { handle.fr with holdoff := 2, txrdyPend := true } }

/-- `TPDU_EXCHANGE` at the default timing, the line turned to receive. -/
def exchanging : State :=
  { handle with
    phase := .tpduExchange
    lines := { vcc := true, rst := false, clk := true }
    atr := { handle.atr with idx := 4, done := true }
    wt := { ticks := 9600, cnt := 0, half := false, full := false }
    line := { handle.line with dir := 1 } }

/-- `TPDU_EXCHANGE` with two frames waiting and the transmitter running. -/
def draining : State :=
  { exchanging with
    seq := { exchanging.seq with txActive := true }
    line := { exchanging.line with dir := 2 }
    fr := { exchanging.fr with txrdyPend := true }
    txq := { frames := [[0x60, 0x61], [0x90]], headOff := 1 } }

/-- The ATR `3B 10 96`, which offers PPS, has been sent; the reader's first byte is awaited. -/
def offering : State :=
  { exchanging with
    phase := .atrDelivery
    atr :=
      { buf := [0x3B, 0x10, 0x96] ++ List.replicate 30 0, len := 3, idx := 3, done := true,
        ppsCapable := true } }

/-- `PPS_NEGOTIATION`, the bytes `FF 10 96` of a request collected. -/
def collecting : State :=
  { offering with
    phase := .ppsNegotiation
    pps := { offering.pps with req := [0xFF, 0x10, 0x96, 0, 0, 0], reqLen := 3, expLen := 4 } }

/-- `PPS_NEGOTIATION`, the response to `FF 10 96 79` owed. -/
def responding : State :=
  { collecting with
    fd := { collecting.fd with nfi := 9, ndi := 6 }
    pps :=
      { req := [0xFF, 0x10, 0x96, 0x79, 0, 0], reqLen := 4, expLen := 4,
        resp := [0xFF, 0x10, 0x96, 0x79, 0, 0], respLen := 4, respIdx := 0 }
    seq := { collecting.seq with txActive := true }
    line := { collecting.line with dir := 2 }
    fr := { collecting.fr with txrdyPend := true } }

/-- `ERROR_HALT` after a guard violation in the exchange. -/
def halted : State :=
  { exchanging with
    phase := .errorHalt
    wt := { ticks := 0, cnt := 0, half := false, full := false }
    line := handle.line
    err := { cause := .guardViolation, contractErr := false } }

/-! ### Well-formedness -/

theorem test_setatr_of_255_bytes_is_well_formed :
    (Instr.setatr (List.replicate 255 0)).wellFormed = true := by
  rw [Instr.wellFormed, List.length_replicate]; decide

theorem test_setatr_of_256_bytes_is_ill_formed :
    (Instr.setatr (List.replicate 256 0)).wellFormed = false := by
  rw [Instr.wellFormed, List.length_replicate]; decide

theorem test_txqapp_of_4095_bytes_is_well_formed :
    (Instr.txqapp (List.replicate 4095 0)).wellFormed = true := by
  rw [Instr.wellFormed, List.length_replicate]; decide

theorem test_txqapp_of_4096_bytes_is_ill_formed :
    (Instr.txqapp (List.replicate 4096 0)).wellFormed = false := by
  rw [Instr.wellFormed, List.length_replicate]; decide

/-! ### Decoding: one word of every row, written out by R81 to R84 -/

/-- `0001 10 01 11 101 011` -/
theorem test_decode_init : decode [0b0001100111101011] = .instr (.init 2 1 3 5 3) [] := by decide

/-- `0010 000000000 00 1` -/
theorem test_decode_iochg_vcc : decode [0b0010000000000001] = .instr (.iochgVcc true) [] := by decide

/-- `0010 000000000 01 0` -/
theorem test_decode_iochg_rst : decode [0b0010000000000010] = .instr (.iochgRst false) [] := by
  decide

/-- `0010 000000000 10 1` -/
theorem test_decode_iochg_clk : decode [0b0010000000000101] = .instr (.iochgClk true) [] := by decide

/-- `0011 000 1 10100000` -/
theorem test_decode_rxb : decode [0b0011000110100000] = .instr (.rxb true 0xA0) [] := by decide

/-- `0100 00000000000 1` -/
theorem test_decode_txrdy : decode [0b0100000000000001] = .instr (.txrdy true) [] := by decide

theorem test_decode_wthalf : decode [0b0101000000000000] = .instr .wthalf [] := by decide

theorem test_decode_wtexp : decode [0b0101000000000001] = .instr .wtexp [] := by decide

/-- `0110 0000 00000011`, then three data words. -/
theorem test_decode_setatr :
    decode [0b0110000000000011, 0x003B, 0x0010, 0x0096] = .instr (.setatr [0x3B, 0x10, 0x96]) [] := by
  decide

/-- `0111 000000000001`, then one data word. -/
theorem test_decode_txqapp : decode [0b0111000000000001, 0x0060] = .instr (.txqapp [0x60]) [] := by
  decide

theorem test_decode_gettxq : decode [0b1000000000000000] = .instr .gettxq [] := by decide

theorem test_decode_newtx : decode [0b1000000000000001] = .instr .newtx [] := by decide

theorem test_decode_repstat : decode [0b1000000000000010] = .instr .repstat [] := by decide

/-- `1001 00000000000 0` -/
theorem test_decode_etu : decode [0b1001000000000000] = .instr (.etu false) [] := by decide

theorem test_decode_gviol : decode [0b1010000000000000] = .instr .gviol [] := by decide

/-- R85: `op` 0 and 0xB, `sig` 3, and a bit of each fixed field. -/
theorem test_decode_illegal :
    [0x0000, 0xB000, 0x2006, 0x2008, 0x3200, 0x4002, 0x5002, 0x6100, 0x8003, 0x9002, 0xA001].all
      (fun w => decode [w, 0x9001] == .illegal [0x9001]) = true := by decide

/-- The table's word of a row with operands that owe data words. -/
theorem test_table_word : decodeTableWord 16 0x6002 = some (.setatr [0, 0]) := by decide

/-! ### One step of every event, with the results of the spec's examples -/

/-- R110, R87: ENABLE 0, DRIVE_IO 1, UPDATE_WT 0, SET_FD 372 1, `ret` the slot. -/
theorem test_init :
    outputs (.init 2 1 3 5 3) State.reset =
      some ([0x63000000, 0x43000001, 0x21000000, 0x13017401], [2]) := by decide

/-- R112: the worked example. -/
theorem test_iochg_vcc :
    outputs (.iochgVcc true) { handle with lines := { handle.lines with rst := true } } =
      some
        ([0x60000000, 0x40000001, 0x20000000, 0x10017401, 0xA0000003, 0x01100103, 0x00010174, 0], []) := by
  decide

/-- R113: the worked example. -/
theorem test_iochg_rst :
    outputs (.iochgRst false) inReset =
      some ([0x60000002, 0x80000000, 0xA0000003, 0x01100A05, 0x00010174, 0], []) := by decide

/-- R113: a release after one tick only is too early. -/
theorem test_iochg_rst_too_early :
    (nextOf (.iochgRst false) { inReset with eng := { inReset.eng with rstHoldCnt := 1 } }).map
      State.phase = some .resetAsserted := by decide

/-- R114: the worked example. -/
theorem test_iochg_clk :
    nextOf (.iochgClk true) handle =
      some { handle with lines := { handle.lines with clk := true } } := by decide

/-- R132: the worked example. -/
theorem test_rxb : outputs (.rxb false 0xA0) exchanging = some ([0x30000000, 0x900000A0], []) := by
  decide

/-- 95: the third parity error in a row halts. -/
theorem test_rxb_third_parity_error :
    outputs (.rxb true 0xA0) { exchanging with seq := { exchanging.seq with retryCnt := 2 } } =
      some
        ([0x30000000, 0x60000000, 0x40000001, 0x20000000, 0xA0000003, 0x01132585, 0x00010174, 0],
          []) := by decide

/-- R133: the worked example. -/
theorem test_txrdy : outputs (.txrdy false) delivering = some ([0x5000003B], [0]) := by decide

/-- 95: `TXRDY.NACK` repeats the byte `02` at index 2. -/
theorem test_txrdy_nack :
    outputs (.txrdy true)
        { delivering with
          atr := { delivering.atr with idx := 2 }
          seq := { delivering.seq with txLast := 0x02, txLastValid := true } } =
      some ([0x50000002], [0]) := by decide

/-- R230: the worked example. -/
theorem test_wthalf :
    outputs .wthalf exchanging =
      some ([0xA0000003, 0x0110048D, 0x00010174, 0x00002580], []) := by decide

/-- R231: the worked example. -/
theorem test_wtexp :
    outputs .wtexp exchanging =
      some ([0x60000000, 0x40000001, 0x20000000, 0xA0000003, 0x01103595, 0x00010174, 0], []) := by
  decide

/-- R162: the worked example. -/
theorem test_setatr :
    (nextOf (.setatr [0x3B, 0x10, 0x96]) handle).map (fun t => (t.atr.len, t.ports.rets)) =
      some (3, [0]) := by decide

/-- R162: deferred during a delivery. -/
theorem test_setatr_deferred :
    (nextOf (.setatr [0x3B, 0x10, 0x96]) delivering).map
        (fun t => (t.atr.len, t.patr.len, t.patr.pending, t.ports.rets)) =
      some (4, 3, true, [2]) := by decide

/-- R160: its examples, the valid ones and then the invalid ones. -/
theorem test_atr_valid :
    [[0x3B, 0x02, 0x14, 0x50], [0x3B, 0x10, 0x96], [0x3B, 0x90, 0x96, 0x80, 0x00],
          [0x3B, 0x80, 0x01, 0x81]].all (fun b => atrValid {} b b.length) = true ∧
      [[0x3B, 0x80], [0x3B], [0x3C, 0x00], [0x3B, 0x02, 0x14], [0x3B, 0x80, 0x01, 0x00]].all
        (fun b => !atrValid {} b b.length) = true := by decide

/-- R250: the worked example. -/
theorem test_txqapp :
    (nextOf (.txqapp [0x60]) handle).map (fun t => (t.txq.frames, t.ports.rets)) =
      some ([[0x60]], [0]) := by decide

/-- R250: an empty frame. -/
theorem test_txqapp_empty : outputs (.txqapp []) handle = some ([], [12]) := by decide

/-- R251: the worked example. -/
theorem test_newtx :
    outputs .newtx { exchanging with txq := { frames := [[0x60]], headOff := 0 } } =
      some ([0x60000002, 0x80000000], []) := by decide

/-- R252: the worked example. -/
theorem test_gettxq :
    outputs .gettxq { handle with ident := { handle.ident with slot := 2 } } = some ([], [2]) := by
  decide

/-- R253: the worked example. -/
theorem test_repstat :
    outputs .repstat handle = some ([0xA0000003, 0x01100000, 0x00010174, 0], []) := by decide

/-- R200: the worked example. -/
theorem test_etu :
    (nextOf (.etu true) { inReset with eng := { inReset.eng with rstHoldCnt := 0 } }).map
      (fun t => (t.eng.rstHoldCnt, t.ports.cmds)) = some (1, []) := by decide

/-- R206: a start bit. -/
theorem test_etu_start_bit :
    (nextOf (.etu false) exchanging).map (fun t => (t.fr.mode, t.fr.slot)) = some (.rx, 1) := by
  decide

/-- R232: the worked example. -/
theorem test_gviol :
    outputs .gviol exchanging =
      some ([0x60000000, 0x40000001, 0x20000000, 0xA0000003, 0x01106585, 0x00010174, 0], []) := by
  decide

/-- R7: the default configuration is a legal one. -/
theorem test_default_config_is_legal : configLegal {} = true := by unfold configLegal configInRange; decide

/-- A configuration away from the defaults: the longest buffer that `ATR_LEN` can count, another default F/D,
two error-signal ticks, a stop bit more, and an ATR that is not valid, which U8 lets a modeller allow. -/
def otherConfig : Config :=
  { atrMax := 63, defaultAtr := [0x3B, 0x80], fiDefault := 9, diDefault := 3, wi := 1
    parityRetryBudget := 2, resetHoldMinEtu := 0, extraGuardN := 1, errSignalEtu := 2
    fdWithdrawn := [(1, 1)] }

/-- R110, U8: a retry budget of 0 is out of range. -/
theorem test_init_out_of_range :
    exec (.init 0 0 0 2 3) { State.reset with config := { parityRetryBudget := 0 } } =
      .refused .illegalConfig := rfl

/-- R113, U8: the malformed `DEFAULT_ATR` is in range, though the configuration is not one of R7; at the
release of RST it halts the engine with cause 1. -/
theorem test_malformed_default_atr :
    (configInRange otherConfig = true ∧ configLegal otherConfig = false) ∧
      (nextOf (.iochgRst false)
          { afterInit otherConfig 0 0 0 2 3 noWords with
            phase := .resetAsserted
            lines := { vcc := true, rst := true, clk := true } }).map
        (fun t => (t.phase, t.err.cause)) = some (.errorHalt, .atrMalformed) := by
  unfold configLegal configInRange; decide

/-- R21: `INITED` is 0 before `INIT`. -/
theorem test_reset_is_uninitialised : State.reset.ident.inited = false := by decide

/-! ### Witnesses: for every statement with hypotheses a state and operands that meet them -/

/-- `ATR_DELIVERY`, the framer sending the byte `3B`. -/
def sending : State :=
  { delivering with
    fr := { delivering.fr with
      mode := .tx, shift := charFrame 0x3B, thr := 0x3B, txrdyPend := false, holdoff := 0 } }

/-- A number of bytes, zero from an index on. -/
def bufCheck (size : Nat) (buf : List Byte) (n : Nat) : Bool :=
  decide (buf.length = size) && (buf.drop n).all (fun b => b == 0)

/-- The invariant as a check that can be evaluated. -/
def invCheck (s : State) : Bool :=
  decide (s.atr.len.toNat ≤ s.config.atrMax ∧
    atrValid s.config s.atr.buf s.atr.len.toNat = true) &&
  decide (s.patr.pending = true → atrValid s.config s.patr.buf s.patr.len.toNat = true) &&
  decide (s.eng.engF = fOf s.config s.fd.fi ∧ s.eng.engD = dOf s.config s.fd.di) &&
  decide (s.wt.ticks ≠ 0 ↔
      (s.phase = .atrDelivery ∧ s.atr.done = true) ∨ s.phase = .ppsNegotiation ∨
        s.phase = .tpduExchange) &&
  decide (exchangePhase s.phase = true → s.lines.vcc = true ∧ s.lines.rst = false) &&
  decide (s.phase = .resetAsserted ∨ s.phase = .errorHalt → s.lines.vcc = true) &&
  decide (s.phase = .poweredOff → ¬ (s.lines.vcc = true ∧ s.lines.rst = true)) &&
  decide (s.line.dir = if exchangePhase s.phase then (if s.seq.txActive then 2 else 1) else 0) &&
  decide (s.seq.txActive = true ↔ s.line.dir = 2) &&
  decide (s.fr.thrValid = true → s.line.dir = 2) &&
  decide (midDelivery s = true → s.atr.idx.toNat ≤ s.atr.len.toNat) &&
  decide (s.phase = .ppsNegotiation ∨ (s.phase = .atrDelivery ∧ s.atr.done = true) →
      s.atr.ppsCapable = true) &&
  decide (if s.txq.frames = [] then s.txq.headOff = 0
    else s.txq.headOff.toNat < (s.txq.frames.headD []).length) &&
  bufCheck s.config.atrMax s.atr.buf s.atr.len.toNat &&
  bufCheck s.config.atrMax s.patr.buf s.patr.len.toNat &&
  decide (s.pps.req.length = 6 ∧ s.pps.resp.length = 6) &&
  decide (fdSupported s.config s.fd.fi s.fd.di = true ∧
    fdSupported s.config s.fd.nfi s.fd.ndi = true) &&
  decide (s.pps.reqLen.toNat ≤ 6 ∧ s.pps.respLen.toNat ≤ 6 ∧
      s.pps.respIdx.toNat ≤ s.pps.respLen.toNat) &&
  decide (s.phase = .ppsNegotiation → s.pps.respLen = 0 →
      (s.pps.reqLen = 1 ∧ s.pps.expLen = 0) ∨
        (2 ≤ s.pps.reqLen.toNat ∧ s.pps.reqLen.toNat < s.pps.expLen.toNat ∧
          s.pps.expLen.toNat ≤ 6)) &&
  decide (s.phase = .ppsNegotiation → (s.seq.txActive = true ↔ s.pps.respLen ≠ 0)) &&
  decide (s.phase ≠ .ppsNegotiation → s.phase ≠ .errorHalt → s.pps.respLen = 0) &&
  decide (s.phase = .atrDelivery → s.seq.txActive = !s.atr.done) &&
  decide (s.seq.retryCnt.toNat ≤ s.config.parityRetryBudget ∧
    (s.phase ≠ .errorHalt → s.seq.retryCnt.toNat < s.config.parityRetryBudget)) &&
  decide (s.err.cause ≠ .none ↔ s.phase = .errorHalt) &&
  decide (if s.wt.ticks = 0 then s.wt.cnt = 0 else s.wt.cnt.toNat < s.wt.ticks.toNat) &&
  decide (s.wt.ticks ≠ 0 → s.wt.ticks = wtValue s.config s.fd.di) &&
  decide (s.wt.full = true → s.phase = .errorHalt ∧ s.err.cause = .wtExpired) &&
  decide ((s.fr.mode = .idle → s.fr.slot = 0) ∧ (s.fr.mode = .tx → s.fr.slot.toNat ≤ 12 + s.config.extraGuardN) ∧
    (s.fr.mode = .rx → 1 ≤ s.fr.slot.toNat ∧ s.fr.slot.toNat ≤ 11)) &&
  decide ((s.line.ioDrv = true ↔ s.line.errsigCnt = 0) ∧
    s.line.errsigCnt.toNat ≤ s.config.errSignalEtu) &&
  decide (exchangePhase s.phase = false → s.line = quietLine ∧ s.fr = quietFramer s.fr) &&
  decide (s.phase = .errorHalt → s.lines.rst = false) &&
  decide (s.txq.frames.length ≤ s.config.txqFramesMax ∧
    ∀ f ∈ s.txq.frames, 1 ≤ f.length ∧ f.length ≤ s.config.txqFrameMax) &&
  configLegal s.config

theorem buf_of_check {size : Nat} {buf : List Byte} {n : Nat} (h : bufCheck size buf n = true) :
    buf.length = size ∧ ∀ i, n ≤ i → rdBuf buf i = 0 := by
  simp only [bufCheck, Bool.and_eq_true, decide_eq_true_eq, List.all_eq_true, beq_iff_eq] at h
  refine ⟨h.1, fun i hi => ?_⟩
  unfold rdBuf
  by_cases hl : i < buf.length
  · rw [List.getD_eq_getElem _ _ hl]
    refine h.2 _ (List.mem_iff_getElem.2 ⟨i - n, by rw [List.length_drop]; omega, ?_⟩)
    simp only [List.getElem_drop]
    congr 1; omega
  · simp [List.getD_eq_getElem?_getD, List.getElem?_eq_none (Nat.le_of_not_lt hl)]

/-- The check decides the invariant. -/
theorem inv_of_check {s : State} (h : invCheck s = true) : Inv s := by
  unfold invCheck at h
  simp only [Bool.and_eq_true, and_assoc] at h
  obtain ⟨d1, d2, d3, d4, d5, d6, d7, d8, d9, d10, d11, d12, d13, b1, b2, b3, b4, b5, b6, b7, b8, b9, b10,
    b11, b12, b13, b14, b15, b16, b17, b18, b19, b20⟩ := h
  simp only [decide_eq_true_eq] at *
  refine ⟨⟨d1, d2, d3, d4, d5, d6, d7, d8, d9, d10, d11, d12, d13⟩,
    ⟨buf_of_check b1, buf_of_check b2, b3, b4, b5, b6, b7, b8, b9, b10, b11, b12, b13, b14, ?_, b16, b17,
      b18, b19, b20⟩⟩
  cases hm : s.fr.mode
  · exact b15.1 hm
  · exact b15.2.1 hm
  · exact b15.2.2 hm


/-! Encoding and steps -/

theorem test_witness_decodeOfEncode :
    (Instr.setatr []).wellFormed = true ∧ (Instr.txqapp [0xFF]).wellFormed = true := by decide

theorem test_witness_decodedWords : decode [0x6001, 0x003B, 0x9001] = .instr (.setatr [0x3B]) [0x9001] := by
  decide

/-- An illegal word after `INIT` and before it, and a legal one that is no `INIT`. -/
theorem test_witness_illegalWords :
    decodeHeader 0x2006 = none ∧
      ({ handle with ports := { noWords with events := [0x2006] } } : State).ports.events = [0x2006] ∧
      handle.ident.inited = true ∧ State.reset.ident.inited = false ∧ (0x9001 : EventWord).op ≠ 1 := by
  decide

/-- A state with words on its event port. -/
def fed (s : State) (ws : List EventWord) : State := { s with ports := { s.ports with events := ws } }

theorem test_witness_stepRuns :
    decode (fed handle [0x9001, 0x8002]).ports.events = .instr (.etu true) [0x8002] := by decide

/-- An empty port; a bad data word in the last place; one word of two owed. -/
theorem test_witness_stepWithout :
    handle.ports.events = [] ∧ decodeHeader 0x6002 = some (.setatr 2) ∧
      decodeHeader 0x7002 = some (.txqapp 2) ∧
      (∃ d ∈ ([0x0000, 0x0100] : List EventWord).take 2, d.high8 ≠ 0) ∧
      (∀ d ∈ ([0x00FF] : List EventWord).take 2, d.high8 = 0) ∧ ([0x00FF] : List EventWord).length < 2 := by
  refine ⟨by decide, by decide, by decide, ⟨0x0100, by simp, by decide⟩, ?_, by decide⟩
  intro d hd
  rw [List.mem_singleton.1 (show d ∈ [0x00FF] from hd)]
  decide

theorem test_witness_beforeInit :
    State.reset.ident.inited = false ∧
      ∀ slot tc uart inep irqep, Instr.gettxq ≠ .init slot tc uart inep irqep :=
  ⟨by decide, by intro _ _ _ _ _ h; cases h⟩

/-- Both cases: the default configuration, and one out of range. -/
theorem test_witness_initCreates :
    State.reset.ident.inited = false ∧ configInRange State.reset.config = true ∧
      configInRange { parityRetryBudget := 0 } = false := by
  unfold configInRange; decide

theorem test_witness_secondInit : handle.ident.inited = true := by decide

/-! Signal monitor and ATR -/

theorem test_witness_vccChange : inReset.ident.inited = true := by decide

theorem test_witness_rstChange : delivering.ident.inited = true := by decide

theorem test_witness_clkChange : exchanging.ident.inited = true ∧ false = false := by decide

theorem test_witness_setatr : delivering.ident.inited = true ∧ handle.ident.inited = true := by decide

theorem test_witness_atrStandsStill :
    ∃ t, exec (.setatr [0x3B, 0x10, 0x96]) delivering = .next t ∧ delivering.phase = .atrDelivery ∧
      delivering.atr.done = false ∧ t.phase = .atrDelivery ∧ t.atr.done = false ∧
      delivering.ident.inited = true :=
  ⟨setAtr [0x3B, 0x10, 0x96] delivering, rfl, by decide, by decide, by decide, by decide, by decide⟩

theorem test_witness_atrBytes :
    Inv delivering ∧ delivering.ident.inited = true ∧ delivering.phase = .atrDelivery ∧
      delivering.atr.done = false ∧ delivering.atr.idx = 0 :=
  ⟨inv_of_check (by decide), by decide⟩

/-! RXB -/

theorem test_witness_byteOutOfPlace :
    delivering.ident.inited = true ∧ ¬ Receives delivering ∧ responding.ident.inited = true ∧
      ¬ Receives responding := by
  unfold Receives; decide

theorem test_witness_goodByte : exchanging.ident.inited = true ∧ exchanging.phase = .tpduExchange := by
  decide

/-- The two windows beside the exchange in which a byte is legal. -/
theorem test_witness_parityError :
    offering.ident.inited = true ∧ Receives offering ∧ collecting.ident.inited = true ∧
      Receives collecting := by
  unfold Receives; decide

theorem test_witness_firstByte :
    offering.ident.inited = true ∧ offering.phase = .atrDelivery ∧ offering.atr.done = true := by decide

theorem test_witness_ppsBytes :
    collecting.ident.inited = true ∧ collecting.phase = .ppsNegotiation ∧ collecting.pps.respLen = 0 := by
  decide

/-! TXRDY -/

theorem test_witness_txrdyOutOfPlace :
    halted.ident.inited = true ∧ halted.phase = .errorHalt ∧ handle.phase = .poweredOff ∧
      inReset.phase = .resetAsserted ∧ exchanging.ident.inited = true ∧
      exchangePhase exchanging.phase = true ∧ exchanging.seq.txActive = false := by decide

/-- A byte that awaits acknowledgement, at the last failure but one. -/
theorem test_witness_rejectedByte :
    let s : State :=
      { draining with seq := { draining.seq with txLast := 0x60, txLastValid := true, retryCnt := 2 } }
    s.ident.inited = true ∧ exchangePhase s.phase = true ∧ s.seq.txActive = true ∧
      s.seq.txLastValid = true := by decide

theorem test_witness_atrByte :
    let s : State := { delivering with atr := { delivering.atr with idx := 3 } }
    s.ident.inited = true ∧ (s.seq.txLastValid && true) = false ∧ s.seq.txActive = true ∧
      s.phase = .atrDelivery ∧ s.atr.done = false ∧ s.atr.idx.toNat < s.atr.len.toNat := by decide

theorem test_witness_atrEnd :
    let s : State := { delivering with atr := { delivering.atr with idx := 4 } }
    s.ident.inited = true ∧ (s.seq.txLastValid && false) = false ∧ s.seq.txActive = true ∧
      s.phase = .atrDelivery ∧ s.atr.done = false ∧ s.atr.len.toNat ≤ s.atr.idx.toNat := by decide

/-- The last byte of the response still to come, and the response over. -/
theorem test_witness_ppsResponse :
    let s : State := { responding with pps := { responding.pps with respIdx := 3 } }
    let e : State := { responding with pps := { responding.pps with respIdx := 4 } }
    (s.ident.inited = true ∧ (s.seq.txLastValid && true) = false ∧ s.seq.txActive = true ∧
        s.phase = .ppsNegotiation ∧ s.pps.respIdx.toNat < s.pps.respLen.toNat) ∧
      e.pps.respLen.toNat ≤ e.pps.respIdx.toNat ∧ e.pps.respLen ≠ 0 := by decide

theorem test_witness_drainQueue :
    draining.ident.inited = true ∧ (draining.seq.txLastValid && true) = false ∧
      draining.seq.txActive = true ∧ draining.phase = .tpduExchange := by decide

theorem test_witness_queuedBytes :
    Inv draining ∧ draining.ident.inited = true ∧ draining.phase = .tpduExchange ∧
      draining.seq.txActive = true :=
  ⟨inv_of_check (by decide), by decide⟩

/-! Timer events, queue and status -/

theorem test_witness_wthalf : exchanging.ident.inited = true ∧ exchanging.wt.ticks ≠ 0 := by decide

theorem test_witness_wtexp : halted.ident.inited = true ∧ halted.wt.ticks = 0 := by decide

theorem test_witness_gviol : draining.ident.inited = true ∧ exchangePhase draining.phase = true := by
  decide

theorem test_witness_txqapp : handle.ident.inited = true ∧ handle.txq.frames = [] := by decide

theorem test_witness_newtx : exchanging.ident.inited = true ∧ exchanging.seq.txActive = false := by
  decide

theorem test_witness_gettxq : halted.ident.inited = true := by decide

theorem test_witness_repstat : inReset.ident.inited = true := by decide

/-! ETU -/

theorem test_witness_etuWithoutClock : handle.ident.inited = true ∧ handle.lines.clk = false := by decide

theorem test_witness_etuOutside :
    Inv inReset ∧ inReset.ident.inited = true ∧ inReset.lines.clk = true ∧
      exchangePhase inReset.phase = false :=
  ⟨inv_of_check (by decide), by decide⟩

/-- Past the half notification, and in a window where the waiting time expires in the same tick. -/
theorem test_witness_startBit :
    let s (c : BitVec 24) : State := { exchanging with wt := { exchanging.wt with cnt := c, half := true } }
    (s 4800).ident.inited = true ∧ (s 4800).lines.clk = true ∧ (s 4800).fr.mode = .idle ∧
      (s 4800).line.dir = 1 ∧ ((nextOf (.etu false) (s 4800)).map (fun t => t.fr.mode)) = some .rx ∧
      ((nextOf (.etu false) (s 9599)).map State.phase) = some .errorHalt := by decide

/-- The tick that reaches the whole waiting time. -/
theorem test_witness_waitingTime :
    let s : State := { exchanging with wt := { exchanging.wt with cnt := 9599, half := true } }
    s.ident.inited = true ∧ s.lines.clk = true ∧ s.phase ≠ .resetAsserted ∧ s.fr.mode = .idle ∧
      s.line.dir = 1 ∧ s.line.ioDrv = true ∧ s.line.errsigCnt = 0 ∧ s.fr.holdoff = 0 ∧
      s.wt.ticks ≠ 0 := by decide

/-- The hold-off at 2 and at 1, with a notification owed and without one, the waiting time armed and not; and
the tick in which the byte `61` is handed over, loaded and the waiting time counted. -/
theorem test_witness_serveTransmitter :
    let s (h : BitVec 8) (p : Bool) : State :=
      { draining with fr := { draining.fr with holdoff := h, txrdyPend := p } }
    ((s 2 true).ident.inited = true ∧ (s 2 true).lines.clk = true ∧ (s 2 true).fr.mode = .idle ∧
        (s 2 true).line.dir = 2 ∧ (s 2 true).wt.ticks ≠ 0 ∧ 2 ≤ (s 2 true).fr.holdoff.toNat) ∧
      ((s 1 false).fr.holdoff.toNat ≤ 1 ∧ (s 1 false).fr.txrdyPend = false) ∧
      ((s 1 true).fr.holdoff.toNat ≤ 1 ∧ (s 1 true).fr.txrdyPend = true) ∧
      (delivering.fr.mode = .idle ∧ delivering.line.dir = 2 ∧ delivering.wt.ticks = 0) ∧
      (nextOf (.etu true) draining).map (fun t => (t.ports.cmds, t.fr.mode, t.fr.slot, t.wt.cnt)) =
        some ([0x50000061, 0x30000000], .tx, 0, 1) := by decide

/-- Slot 10, which is sampled, slot 11 without and with the error signal seen, slot 12 after one; and the tick
in which the character ends and the next byte is handed over and loaded. -/
theorem test_witness_errorSignal :
    let s (k : BitVec 5) (n : Bool) : State :=
      { sending with fr := { sending.fr with slot := k, nackSeen := n } }
    ((s 10 false).ident.inited = true ∧ (s 10 false).lines.clk = true ∧ (s 10 false).fr.mode = .tx) ∧
      ((s 11 true).fr.slot.toNat < 11 + (s 11 true).config.extraGuardN + 1 ∧
        ¬ (s 11 false).fr.slot.toNat < 11 + (s 11 false).config.extraGuardN + 0) ∧
      (¬ (s 12 true).fr.slot.toNat < 11 + (s 12 true).config.extraGuardN + 1) ∧
      (nextOf (.etu true) (s 11 false)).map
          (fun t => (t.ports.cmds, t.fr.mode, t.fr.slot, t.fr.txrdyPend, t.fr.shift)) =
        some ([0x5000003B], .tx, 0, false, charFrame 0x3B) := by decide

/-- Slots 10 and 11, with a high line and a low one. -/
theorem test_witness_guardViolation :
    let s (k : BitVec 5) : State :=
      { exchanging with fr := { exchanging.fr with mode := .rx, slot := k } }
    ((s 10).ident.inited = true ∧ (s 10).lines.clk = true ∧ (s 10).fr.mode = .rx ∧
        (s 10).fr.slot = 10 ∧ (s 11).fr.slot = 11) ∧
      ((nextOf (.etu false) (s 11)).map State.phase) = some .errorHalt ∧
      ((nextOf (.etu true) (s 11)).map (fun t => (t.phase, t.fr.mode))) =
        some (.tpduExchange, .idle) := by decide

/-- The three receiving states, up to the last count from which the nine ticks do not expire; and the last
count from which a character still ends below the half, with a failure that does not halt. -/
theorem test_witness_receivedCharacter :
    let s : State :=
      { exchanging with
        wt := { exchanging.wt with cnt := 4787 }
        seq := { exchanging.seq with retryCnt := 1 } }
    let at9590 (u : State) : State := { u with wt := { u.wt with cnt := 9590 } }
    let met (u : State) : Prop :=
      u.ident.inited = true ∧ u.lines.clk = true ∧ u.phase ≠ .resetAsserted ∧ u.fr.mode = .idle ∧
        u.line = { dir := 1, ioDrv := true, errsigCnt := 0 } ∧ noExpiry 9 u
    (met (at9590 offering) ∧ met (at9590 collecting) ∧ met (at9590 exchanging)) ∧
      met s ∧ s.phase = .tpduExchange ∧ configInRange s.config = true ∧
      2 * (s.wt.cnt.toNat + 12) < s.wt.ticks.toNat ∧
      s.seq.retryCnt.toNat + 1 < s.config.parityRetryBudget := by
  unfold noExpiry configInRange; decide

/-- A byte of the ATR, and a byte of the exchange whose waiting time is about to notify. -/
theorem test_witness_transmittedCharacter :
    let e : State :=
      { draining with
        wt := { draining.wt with cnt := 4795 }
        fr := { draining.fr with mode := .tx, shift := charFrame 0x60, txrdyPend := false } }
    let met (b : Byte) (u : State) : Prop :=
      u.ident.inited = true ∧ u.lines.clk = true ∧ u.phase ≠ .resetAsserted ∧ u.line.ioDrv = true ∧
        u.line.errsigCnt = 0 ∧ u.fr.mode = .tx ∧ u.fr.slot = 0 ∧ u.fr.shift = charFrame b ∧
        u.fr.nackSeen = false ∧ noExpiry 11 u
    met 0x3B sending ∧ met 0x60 e ∧ e.wt.ticks ≠ 0 := by
  unfold noExpiry; decide

/-! Tables -/

theorem test_witness_tables : configInRange {} = true ∧ configInRange otherConfig = true := by
  unfold configInRange; decide

/-! The machine as a whole -/

theorem test_witness_everyStep :
    Inv (fed halted [0x2000, 0x2003]) ∧ ∃ t, step (fed halted [0x2000, 0x2003]) = .next t :=
  ⟨inv_of_check (by decide), next_of_isSome (by decide)⟩

theorem test_witness_initInvariant :
    State.reset.ident.inited = false ∧ configLegal State.reset.config = true ∧
      ∃ t, exec (.init 0 0 0 2 3) State.reset = .next t :=
  ⟨by decide, test_default_config_is_legal, next_of_isSome (by decide)⟩

theorem test_witness_phaseTable :
    Inv inReset ∧ inReset.ident.inited = true ∧ ∃ t, exec (.iochgRst false) inReset = .next t :=
  ⟨inv_of_check (by decide), by decide, next_of_isSome (by decide)⟩

/-- An `ETU` in which the waiting time expires: the row of `WTEXP`, performed by it. -/
theorem test_witness_phaseTableEtu :
    let s : State := { exchanging with wt := { exchanging.wt with cnt := 9599, half := true } }
    Inv s ∧ performedByEtu true s .wtexp ∧ transitionRow .wtexp s .errorHalt ∧
      ∃ t, exec (.etu true) s = .next t ∧ t.phase = .errorHalt :=
  ⟨inv_of_check (by decide), ⟨by decide, Or.inr (Or.inr (Or.inr (by decide)))⟩,
    Or.inr (Or.inr (Or.inr (Or.inl (by decide)))), etu true _, rfl, by decide⟩

theorem test_witness_phaseReport :
    ∃ t, exchanging.ident.inited = true ∧ exec .gviol exchanging = .next t ∧
      t.phase ≠ exchanging.phase :=
  ⟨halt .guardViolation exchanging, by decide, rfl, by decide⟩

theorem test_witness_halted :
    Inv halted ∧ halted.ident.inited = true ∧ halted.phase = .errorHalt :=
  ⟨inv_of_check (by decide), by decide⟩

theorem test_witness_latchWriters :
    exchanging.ident.inited = true ∧ (∃ t, exec (.rxb false 0x00) exchanging = .next t) ∧
      (∀ a, Instr.rxb false 0x00 ≠ .iochgVcc a) ∧ (∀ a, Instr.rxb false 0x00 ≠ .iochgRst a) ∧
      ∀ a, Instr.rxb false 0x00 ≠ .iochgClk a :=
  ⟨by decide, next_of_isSome (by decide), by decide, by decide, by decide⟩

/-- The end of a PPS, where F and D do change. -/
theorem test_witness_fdChanges :
    let s : State := { responding with pps := { responding.pps with respIdx := 4 } }
    Inv s ∧
      ∃ t, s.ident.inited = true ∧ exec (.txrdy false) s = .next t ∧ t.fd.fi = 9 ∧
        t.phase = .tpduExchange :=
  ⟨inv_of_check (by decide), txrdy false { responding with pps := { responding.pps with respIdx := 4 } },
    by decide, rfl, by decide⟩

theorem test_witness_inertRegisters :
    inertBlanked handle = inertBlanked (afterInit {} 0 0 0 5 5 noWords) ∧
      handle ≠ afterInit {} 0 0 0 5 5 noWords := by decide

theorem test_witness_waitingBytes :
    Inv draining ∧ draining.ident.inited = true ∧ ∃ t, exec (.txrdy false) draining = .next t :=
  ⟨inv_of_check (by decide), by decide, next_of_isSome (by decide)⟩

end Sys2Proof.Tests
end

section
/-! PROOFS. One step, read off the event port (00_scope.md R11, 20_memory.md R66, R75). -/

namespace Sys2Proof.Proofs

open Sys2Proof Sys2Proof.Machine

/-- Taking words from the event port changes that port and nothing else. -/
theorem takeEvent_eq (s : State) (rest : List EventWord) :
    s.takeEvent rest = { s with ports := { s.ports with events := rest } } := rfl

/-- The branch of `step` for a whole legal event at the head of the port. -/
theorem step_of_decode_instr {s : State} {i : Instr} {rest : List EventWord}
    (h : decode s.ports.events = .instr i rest) : step s = exec i (s.takeEvent rest) := by
  simp only [step, h]

/-- Settles O7: the branch of `step` for a decoded event, and what taking its words leaves unchanged. -/
theorem stepRunsTheDecodedEvent : Obligations.StepRunsTheDecodedEvent := by
  unfold Obligations.StepRunsTheDecodedEvent
  intro s i rest hdec
  calc step s = exec i (s.takeEvent rest) := step_of_decode_instr hdec
    _ = exec i { s with ports := { s.ports with events := rest } } := by rw [takeEvent_eq]

end Sys2Proof.Proofs
end

section
/-! PROOFS. What every event answers, by whether the handle exists (40_init_and_signal_monitor.md R110, R115), and
the steps that take no event (10_state.md R22, 30_encoding.md R84). -/

namespace Sys2Proof.Proofs

open Sys2Proof Sys2Proof.Machine

/-- The state an event gives on a created handle, event by event; a second `INIT` counts as an illegal word
(log entry 5). -/
def eventResult : Instr → State → State
  | .init _ _ _ _ _ => illegalWord
  | .iochgVcc active => Machine.iochgVcc active
  | .iochgRst active => Machine.iochgRst active
  | .iochgClk active => Machine.iochgClk active
  | .rxb perr byte => Machine.rxb perr byte
  | .txrdy nack => Machine.txrdy nack
  | .wthalf => Machine.wthalf
  | .wtexp => Machine.wtexp
  | .setatr bytes => setAtr bytes
  | .txqapp bytes => txqApp bytes
  | .gettxq => fun s => ret (s.ident.slot.setWidth 8) s
  | .newtx => kick
  | .repstat => emitStatus
  | .etu rdr => Machine.etu rdr
  | .gviol => Machine.gviol

/-- Every event but `INIT` is its result on a created handle, and refused otherwise (R115). -/
theorem exec_eq_created {i : Instr} (s : State)
    (hi : ∀ slot tc uart inep irqep, i ≠ .init slot tc uart inep irqep) :
    exec i s = created s (eventResult i s) := by
  cases i with
  | init slot tc uart inep irqep => exact absurd rfl (hi slot tc uart inep irqep)
  | _ => rfl

/-- An event is an `INIT`, or one of the others. -/
theorem init_or_other (i : Instr) :
    (∃ slot tc uart inep irqep, i = .init slot tc uart inep irqep) ∨
      ∀ slot tc uart inep irqep, i ≠ .init slot tc uart inep irqep := by
  cases i with
  | init slot tc uart inep irqep => exact Or.inl ⟨slot, tc, uart, inep, irqep, rfl⟩
  | _ => exact Or.inr (by intros; simp)

/-- On a created handle every event completes. -/
theorem exec_of_inited (i : Instr) {s : State} (h : s.ident.inited = true) :
    exec i s = .next (eventResult i s) := by
  cases i with
  | init slot tc uart inep irqep => simp only [exec, execInit, h, if_true, eventResult]
  | _ => exact created_of_inited _ _ h

/-- The state of a completed event on a created handle. -/
theorem eq_eventResult {i : Instr} {s t : State} (h : s.ident.inited = true)
    (ht : exec i s = .next t) : t = eventResult i s := by
  rw [exec_of_inited i h] at ht
  injection ht with ht
  exact ht.symm

/-- Settles O9: every meaning but `INIT`'s goes through `created`. -/
theorem nothingButInitBeforeInit : Obligations.NothingButInitBeforeInit := by
  unfold Obligations.NothingButInitBeforeInit
  intro i s h hi
  rw [exec_eq_created s hi, created_of_not_inited _ _ h]

/-- Data words among which one has a bit of 15:8 set are malformed (R84). -/
theorem decodeData_of_bad {n : Nat} {ws : List EventWord} (mk : List Byte → Instr)
    (h : ∃ d ∈ ws.take n, d.high8 ≠ 0) : decodeData n ws mk = .badData := by
  have hany : (ws.take n).any (fun d => d.high8 != 0) = true := by
    obtain ⟨d, hd, hb⟩ := h
    exact List.any_eq_true.2 ⟨d, hd, bne_iff_ne.2 hb⟩
  unfold decodeData
  rw [if_pos hany]

/-- Good data words, fewer than the header owes (R84, U7). -/
theorem decodeData_of_short {n : Nat} {ws : List EventWord} (mk : List Byte → Instr)
    (hgood : ∀ d ∈ ws.take n, d.high8 = 0) (hlen : ws.length < n) :
    decodeData n ws mk = .owed := by
  have hany : ¬ (ws.take n).any (fun d => d.high8 != 0) = true := by
    intro hb
    obtain ⟨d, hd, hx⟩ := List.any_eq_true.1 hb
    exact bne_iff_ne.1 hx (hgood d hd)
  unfold decodeData
  rw [if_neg hany, if_pos hlen]

/-- A header that owes data words is decoded with them (R84). -/
theorem decode_of_owing {w : EventWord} {n : Nat} (ws : List EventWord)
    (h : decodeHeader w = some (.setatr n) ∨ decodeHeader w = some (.txqapp n)) :
    ∃ mk, decode (w :: ws) = decodeData n ws mk := by
  rcases h with h | h
  · exact ⟨_, decode_setatr w ws n h⟩
  · exact ⟨_, decode_txqapp w ws n h⟩

/-- Settles O8: the three answers of `step` that apply no event. -/
theorem stepWithoutAWholeEvent : Obligations.StepWithoutAWholeEvent := by
  unfold Obligations.StepWithoutAWholeEvent
  refine ⟨fun s hs => by simp [step, hs, decode], fun s w ws n hs howe => ?_⟩
  obtain ⟨mk, hdec⟩ := decode_of_owing ws howe
  refine ⟨fun hbad => ?_, fun hgood hlen => ?_⟩
  · simp only [step, hs, hdec, decodeData_of_bad mk hbad]
  · simp only [step, hs, hdec, decodeData_of_short mk hgood hlen]

end Sys2Proof.Proofs
end

section
/-! PROOFS. The invariant where a whole event keeps it or establishes it: `INIT`, the state before it, the signal
monitor, `SETATR` and `TXQAPP` (40_init_and_signal_monitor.md R110 to R114, 42_atr.md R162,
46_txqueue_and_status.md R250). -/

namespace Sys2Proof.Proofs

open Sys2Proof Sys2Proof.Machine

/-! ### Buffers loaded with an ATR (R61, R160, R162) -/

theorem rdBuf_of_length_le {b : List Byte} {i : Nat} (h : b.length ≤ i) : rdBuf b i = 0 := by
  simp [rdBuf, List.getD_eq_getElem?_getD, List.getElem?_eq_none h]

/-- The walk of R160 looks at a buffer through `rdBuf` only. -/
theorem atrWalk_congr {b d : List Byte} (h : ∀ i, rdBuf b i = rdBuf d i) (n fuel : Nat) :
    ∀ i y tck, atrWalk b n fuel i y tck = atrWalk d n fuel i y tck := by
  induction fuel with
  | zero => intro i y tck; rfl
  | succ fuel ih => intro i y tck; simp only [atrWalk, h, ih]

/-- `ATR_VALID` looks at a buffer through `rdBuf` and at its first `n` bytes. -/
theorem atrValid_congr (c : Config) {b d : List Byte} {n : Nat} (h : ∀ i, rdBuf b i = rdBuf d i)
    (ht : b.take n = d.take n) : atrValid c b n = atrValid c d n := by
  simp only [atrValid, h, atrWalk_congr h, ht]

/-- Loading an ATR into its buffer does not change its validity. -/
theorem atrValid_loadBuf (c : Config) {m : Nat} {bytes : List Byte} (h : bytes.length ≤ m) :
    atrValid c (loadBuf m bytes) bytes.length = atrValid c bytes bytes.length := by
  refine atrValid_congr c (fun i => rdBuf_loadBuf m i bytes h) ?_
  simp [loadBuf, List.take_of_length_le h]

/-- The canonical form of a loaded buffer: its fixed length, and zeros above the bytes. -/
theorem loadBuf_canonical {m : Nat} {bytes : List Byte} (h : bytes.length ≤ m) :
    (loadBuf m bytes).length = m ∧ ∀ i, bytes.length ≤ i → rdBuf (loadBuf m bytes) i = 0 :=
  ⟨loadBuf_length m bytes h, fun i hi => by rw [rdBuf_loadBuf m i bytes h, rdBuf_of_length_le hi]⟩

/-- `ATR_LEN` counts every ATR that fits a legal `ATR_MAX` (R24, log entry 15). -/
theorem atrLen_toNat {c : Config} (hc : InRange c) {n : Nat} (h : n ≤ c.atrMax) :
    (BitVec.ofNat 6 n).toNat = n := by
  have := hc.atrMax_most
  rw [BitVec.toNat_ofNat]
  exact Nat.mod_eq_of_lt (by omega)

/-! ### Creation of the handle -/

/-- `INIT` gives the column "after INIT" of R41, with the commands and the handle of R110. -/
theorem initHandle_eq (slot tc uart : BitVec 2) (inep irqep : BitVec 3) {s : State}
    (h : s.config.defaultAtr.length ≤ s.config.atrMax) :
    initHandle slot tc uart inep irqep s =
      ((afterInit s.config slot tc uart inep irqep s.ports).emits
        [enableWord (afterInit s.config slot tc uart inep irqep s.ports).ident 0,
          driveIoWord (afterInit s.config slot tc uart inep irqep s.ports).ident true,
          updateWtWord (afterInit s.config slot tc uart inep irqep s.ports).ident 0,
          setFdWord s.config (afterInit s.config slot tc uart inep irqep s.ports).ident
            s.config.fiDefault s.config.diDefault]).returns (slot.setWidth 8) := by
  unfold initHandle emitSetFd
  rw [emit_updateWt_zero, emit_driveIo, emit_enable_off, emit_setFd, ret_eq]
  simp [State.emits, State.returns, clearSession, initRegisters, afterInit, State.withIdent,
    State.withPhase, State.withLines, State.withAtr, State.withPatr, State.withFd, State.withWt,
    State.withFr, State.withTxq, State.withSeq, State.withPps, State.withErr, State.withEng, loadBuf,
    List.take_of_length_le h, fdDefaults, defaultIndices, quietLine, quietFramer, setFdWord, txqFlush]

/-- The column "after INIT" has the invariant under every legal configuration. -/
theorem afterInit_inv {c : Config} (hc : configLegal c = true) (slot tc uart : BitVec 2)
    (inep irqep : BitVec 3) (p : Ports) : Inv (afterInit c slot tc uart inep irqep p) := by
  have hr := inRange_of_legal hc
  have hfit := hr.defaultAtr_fits
  have hbuf : c.defaultAtr ++ List.replicate (c.atrMax - c.defaultAtr.length) 0 =
      loadBuf c.atrMax c.defaultAtr := by simp [loadBuf, List.take_of_length_le hfit]
  have hlen := atrLen_toNat hr hfit
  have hheld : atrValid c (loadBuf c.atrMax c.defaultAtr) c.defaultAtr.length = true := by
    rw [atrValid_loadBuf c hfit]; exact defaultAtr_valid hc
  refine ⟨?documented, ?bounded⟩
  case documented =>
    constructor <;> simp only [afterInit, hbuf, hlen]
    case heldAtr => exact ⟨hfit, hheld⟩
    all_goals simp [defaultIndices, exchangePhase, quietLine, midDelivery]
  case bounded =>
    constructor <;> simp only [afterInit, hbuf, hlen]
    case atrBuf => exact loadBuf_canonical hfit
    case patrBuf =>
      have hempty : List.replicate c.atrMax 0 = loadBuf c.atrMax [] := by simp [loadBuf]
      rw [hempty]; exact loadBuf_canonical (Nat.zero_le _)
    case supported => exact ⟨hr.default_supported, hr.default_supported⟩
    case retry => exact ⟨Nat.zero_le _, fun _ => hr.budget_least⟩
    case config => exact hc
    all_goals simp [defaultIndices, exchangePhase, quietLine, quietFramer]

/-- Settles O52: `INIT` gives the column "after INIT", which has the invariant. -/
theorem initEstablishesTheInvariant : Obligations.InitEstablishesTheInvariant := by
  unfold Obligations.InitEstablishesTheInvariant
  intro slot tc uart inep irqep s t hi hc ht
  have hfit := (inRange_of_legal hc).defaultAtr_fits
  have hin : configInRange s.config = true := by
    unfold configLegal at hc
    exact (Bool.and_eq_true _ _ ▸ hc).1
  have hx : exec (.init slot tc uart inep irqep) s = .next (initHandle slot tc uart inep irqep s) := by
    simp [exec, execInit, hi, hin]
  rw [hx, initHandle_eq slot tc uart inep irqep hfit] at ht
  injection ht with ht
  rw [← ht]
  exact ((afterInit_inv hc slot tc uart inep irqep s.ports).emits _).returns _

/-- The default configuration of R7 is legal. -/
theorem defaultConfig_legal : configLegal {} = true := by decide

/-- Settles O51: but for the identity the state before `INIT` is the column "after INIT" of the default
configuration (log entry 3). -/
theorem resetHasTheInvariant : Obligations.ResetHasTheInvariant := by
  unfold Obligations.ResetHasTheInvariant
  exact (afterInit_inv defaultConfig_legal 0 0 0 0 0 State.reset.ports).of_groups
    rfl rfl rfl rfl rfl rfl rfl rfl rfl rfl rfl rfl rfl rfl

/-- An illegal word keeps the invariant (R85). -/
theorem illegalWord_inv {s : State} (h : Inv s) : Inv (illegalWord s) :=
  (contractErrSet_inv h).returns _

/-! ### The signal monitor -/

/-- Without power the card is powered off (R40 e). -/
theorem phase_of_unpowered {s : State} (h : Inv s) (hv : s.lines.vcc = false) :
    s.phase = .poweredOff := by
  have hact := h.documented.active
  have hpow := h.documented.powered
  cases hp : s.phase <;> simp_all [exchangePhase]

/-- With RST asserted the card is in reset or powered off (R40 e, R288). -/
theorem phase_of_rst {s : State} (h : Inv s) (hr : s.lines.rst = true) :
    s.phase = .resetAsserted ∨ s.phase = .poweredOff := by
  have hact := h.documented.active
  have hhalt := h.bounded.haltReleased
  cases hp : s.phase <;> simp_all [exchangePhase]

/-- `IOCHG.VCC` keeps the invariant (R112). -/
theorem iochgVcc_inv {s : State} (h : Inv s) (a : Bool) : Inv (iochgVcc a s) := by
  unfold iochgVcc
  dsimp only
  split
  · next hup =>
    obtain ⟨hv, rfl⟩ := hup
    have hoff := phase_of_unpowered h hv
    split
    · rw [resetEvent_eq]
      exact afterReset_inv (h.stored.withLines _) rfl
    · next hr =>
      have hr : s.lines.rst = false := by simpa using hr
      exact h.withLatches true s.lines.rst (by simp [hoff, exchangePhase]) (fun _ => rfl)
        (by simp [hr]) (fun _ => hr)
  · next hup =>
    split
    · next hdown =>
      obtain ⟨-, rfl⟩ := hdown
      rw [powerOff_eq]
      exact afterPowerOff_inv (h.stored.withLines _) rfl
    · next hdown =>
      have ha : a = s.lines.vcc := by
        cases hv : s.lines.vcc <;> cases a <;> simp_all
      subst ha
      exact h.of_groups rfl rfl rfl rfl rfl rfl rfl rfl rfl rfl rfl rfl rfl rfl

/-- `IOCHG.RST` keeps the invariant (R113). -/
theorem iochgRst_inv {s : State} (h : Inv s) (a : Bool) : Inv (iochgRst a s) := by
  unfold iochgRst
  dsimp only
  split
  · next hup =>
    obtain ⟨hr, rfl⟩ := hup
    split
    · next hv =>
      rw [resetEvent_eq]
      exact afterReset_inv (h.stored.withLines _) hv
    · next hv =>
      have hv : s.lines.vcc = false := by simpa using hv
      have hoff := phase_of_unpowered h hv
      exact h.withLatches s.lines.vcc true (by simp [hoff, exchangePhase]) (by simp [hoff])
        (by simp [hv]) (by simp [hoff])
  · next hup =>
    split
    · next hdown =>
      obtain ⟨hr, rfl⟩ := hdown
      have hphase := phase_of_rst h hr
      have hreleased : Inv (s.withLines { s.lines with rst := false }) :=
        h.withLatches s.lines.vcc false
          (by rcases hphase with hp | hp <;> simp [hp, exchangePhase])
          h.documented.powered (by simp) (fun _ => rfl)
      split
      · next hhold =>
        rw [if_pos (show atrValid _ _ _ = true from hreleased.documented.heldAtr.2),
          startDelivery_eq]
        exact afterRelease_inv hreleased hhold.1 rfl
      · exact hreleased
    · next hdown =>
      have ha : a = s.lines.rst := by
        cases hr : s.lines.rst <;> cases a <;> simp_all
      subst ha
      exact h.of_groups rfl rfl rfl rfl rfl rfl rfl rfl rfl rfl rfl rfl rfl rfl

/-! ### SETATR and TXQAPP -/

/-- `SETATR` keeps the invariant (R162). -/
theorem setAtr_inv {s : State} (h : Inv s) (bytes : List Byte) : Inv (setAtr bytes s) := by
  have hr := inRange_of_legal h.bounded.config
  unfold setAtr
  split
  · exact h.returns _
  · next hfit =>
    have hfit : bytes.length ≤ s.config.atrMax := Nat.le_of_not_lt hfit
    have hlen := atrLen_toNat hr hfit
    split
    · exact h.returns _
    · next hv =>
      have hvalid : atrValid s.config (loadBuf s.config.atrMax bytes)
          (BitVec.ofNat 6 bytes.length).toNat = true := by
        rw [hlen, atrValid_loadBuf _ hfit]; simpa using hv
      have hcanon : (loadBuf s.config.atrMax bytes).length = s.config.atrMax ∧
          ∀ i, (BitVec.ofNat 6 bytes.length).toNat ≤ i →
            rdBuf (loadBuf s.config.atrMax bytes) i = 0 := by
        rw [hlen]; exact loadBuf_canonical hfit
      split
      · refine Inv.returns (s := State.withPatr s _) ⟨?_, ?_⟩ _
        · exact { h.documented with pendingAtr := fun _ => hvalid }
        · exact { h.bounded with patrBuf := hcanon }
      · next hmid =>
        refine Inv.returns (s := State.withPatr _ _) ⟨?_, ?_⟩ _
        · exact { h.documented with
            heldAtr := ⟨by rw [← hlen] at hfit; exact hfit, hvalid⟩
            pendingAtr := by simp
            deliveryIdx := fun hx => absurd hx hmid }
        · exact { h.bounded with atrBuf := hcanon }

/-- A frame at the end leaves the head offset in the head frame (R40 i, R62). -/
theorem headOff_append {q : TxQueue} {f : List Byte} (hf : f ≠ [])
    (h : if q.frames = [] then q.headOff = 0 else q.headOff.toNat < (q.frames.headD []).length) :
    (q.frames ++ [f]) ≠ [] ∧ q.headOff.toNat < ((q.frames ++ [f]).headD []).length := by
  refine ⟨by simp, ?_⟩
  cases hq : q.frames with
  | nil =>
    rw [if_pos hq] at h
    rw [h]; simpa using List.length_pos_iff.2 hf
  | cons g gs =>
    rw [if_neg (by simp [hq]), hq] at h
    simpa using h

/-- `TXQAPP` keeps the invariant (R250). -/
theorem txqApp_inv {s : State} (h : Inv s) (bytes : List Byte) : Inv (txqApp bytes s) := by
  unfold txqApp
  split
  · exact h.returns _
  · next hlen =>
    obtain ⟨hne, hmax⟩ := not_or.1 hlen
    split
    · exact h.returns _
    · next hroom =>
      obtain ⟨happ, hoff⟩ := headOff_append (f := bytes) (by simpa using hne) h.documented.headOff
      have hcap := h.bounded.capacity
      refine Inv.returns (s := State.withTxq s _) ⟨?_, ?_⟩ _
      · exact { h.documented with headOff := by rw [if_neg (by exact happ)]; exact hoff }
      · refine { h.bounded with capacity := ⟨?_, fun f hf => ?_⟩ }
        · simp [txqAppend]; omega
        · rcases List.mem_append.1 hf with hf | hf
          · exact hcap.2 f hf
          · rw [List.mem_singleton.1 hf]; exact ⟨by omega, Nat.le_of_not_lt hmax⟩

end Sys2Proof.Proofs
end

section
/-! PROOFS. The invariant through `RXB` and the PPS exchange (41_protocol_fsm.md R132 to R135, 43_pps_and_fd.md R184,
R185). -/

namespace Sys2Proof.Proofs

open Sys2Proof Sys2Proof.Machine

variable {s : State}

/-! ### Facts read off the invariant -/

/-- A step outside the halt leaves `ERR_CAUSE` at `NONE`. -/
theorem cause_none (h : Inv s) (hp : s.phase ≠ .errorHalt) : s.err.cause = .none := by
  by_contra hc
  exact hp (h.bounded.cause.1 hc)

/-- The budget fits `RETRY_CNT`, so that one failure more is counted exactly (R12). -/
theorem retryCnt_succ_toNat (h : Inv s) (hp : s.phase ≠ .errorHalt) :
    (BitVec.ofNat 4 (s.seq.retryCnt.toNat + 1)).toNat = s.seq.retryCnt.toNat + 1 := by
  have hlt := h.bounded.retry.2 hp
  have hmost := (inRange_of_legal h.bounded.config).budget_most
  rw [BitVec.toNat_ofNat]
  exact Nat.mod_eq_of_lt (by omega)

/-- A failure that uses up the budget is counted within it. -/
theorem failureCounted_stored (h : Inv s) (hp : s.phase ≠ .errorHalt) :
    Stored { s with
      seq := { s.seq with retryCnt := BitVec.ofNat 4 (s.seq.retryCnt.toNat + 1) } } := by
  have hlt := h.bounded.retry.2 hp
  exact { h.stored with retry := by rw [retryCnt_succ_toNat h hp]; exact hlt }

/-- A failure short of the budget keeps the invariant. -/
theorem failureCounted_inv (h : Inv s) (hp : s.phase ≠ .errorHalt)
    (hlt : ¬ s.config.parityRetryBudget ≤ s.seq.retryCnt.toNat + 1) :
    Inv { s with
      seq := { s.seq with retryCnt := BitVec.ofNat 4 (s.seq.retryCnt.toNat + 1) } } := by
  have hcnt := retryCnt_succ_toNat h hp
  refine h.withSeqRegs _ rfl ?_ (fun _ => ?_)
  · rw [hcnt]; omega
  · rw [hcnt]; omega

/-- A halt in an exchange phase, from a state whose registers are stored as the invariant asks. -/
theorem halt_inv_of_stored {c : ErrCause} (h : Stored s) (hv : s.lines.vcc = true)
    (hr : s.lines.rst = false) (hf : s.wt.full = false) (hc : c ≠ .none) : Inv (halt c s) := by
  rw [halt_eq]
  exact afterHalt_inv h hv hr hc (by simp [hf])

/-- In the exchange the line may be pulled low while an error signal is counted (R135, R235). -/
theorem signalled_inv (h : Inv s) (hp : exchangePhase s.phase = true) (l : LineCtl)
    (hdir : l.dir = s.line.dir) (hdrv : l.ioDrv = true ↔ l.errsigCnt = 0)
    (hcnt : l.errsigCnt.toNat ≤ s.config.errSignalEtu) : Inv { s with line := l } := by
  refine ⟨?_, ?_⟩
  · exact { h.documented with
      direction := by simpa only [hdir] using h.documented.direction
      activeTx := by simpa only [hdir] using h.documented.activeTx
      holding := by simpa only [hdir] using h.documented.holding }
  · exact { h.bounded with
      signalling := ⟨hdrv, hcnt⟩
      quiet := fun hx => absurd hp (by simpa using hx) }

/-! ### Entry to `TPDU_EXCHANGE` (R134, R165, R187) -/

/-- The registers of lines, transmitter, errors and framer, which the entry to the exchange leaves alone. -/
structure SameLineSide (s t : State) : Prop where
  lines : t.lines = s.lines
  seq : t.seq = s.seq
  err : t.err = s.err
  line : t.line = s.line
  fr : t.fr = s.fr
  config : t.config = s.config

/-- The waiting time is armed with the value for the index in force, and has not expired (R188, R236). -/
structure WaitRunning (s : State) : Prop where
  armed : s.wt.ticks ≠ 0
  value : s.wt.ticks = wtValue s.config s.fd.di
  below : s.wt.cnt.toNat < s.wt.ticks.toNat
  unexpired : s.wt.full = false

/-- The exchange entered from another exchange phase, with no response owed and the waiting time running. -/
theorem enteredExchange_inv {t : State} (h : Inv s) (hex : exchangePhase s.phase = true)
    (hsame : SameLineSide s t) (hstored : Stored t) (hp : t.phase = .tpduExchange)
    (hresp : t.pps.respLen = 0) (hwait : WaitRunning t) : Inv t := by
  obtain ⟨hlines, hseq, herr, hline, hfr, hcfg⟩ := hsame
  have hdir := h.documented.direction
  have hcause := cause_none h (exchange_ne_halt hex)
  have hretry := h.bounded.retry.2 (exchange_ne_halt hex)
  rw [if_pos hex] at hdir
  refine ⟨?_, ?_⟩
  · exact { hstored with
      armed := ⟨fun _ => Or.inr (Or.inr hp), fun _ => hwait.armed⟩
      active := fun _ => by rw [hlines]; exact h.documented.active hex
      powered := by simp [hp]
      unpowered := by simp [hp]
      direction := by rw [hline, hseq, hp]; exact hdir
      activeTx := by rw [hline, hseq]; exact h.documented.activeTx
      holding := by rw [hline, hfr]; exact h.documented.holding
      deliveryIdx := by simp [midDelivery, hp]
      ppsOffered := by simp [hp] }
  · exact { hstored with
      collecting := by simp [hp]
      responding := by simp [hp]
      noResponse := fun _ _ => hresp
      delivering := by simp [hp]
      retry := ⟨hstored.retry, fun _ => by rw [hseq, hcfg]; exact hretry⟩
      cause := by simp [herr, hcause, hp]
      waiting := by rw [if_neg hwait.armed]; exact hwait.below
      waitValue := fun _ => hwait.value
      expired := by simp [hwait.unexpired]
      slots := by rw [hfr, hcfg]; exact h.bounded.slots
      signalling := by rw [hline, hcfg]; exact h.bounded.signalling
      quiet := by simp [hp, exchangePhase]
      haltReleased := by simp [hp] }

/-! ### Parity errors (R135) -/

theorem rxParityError_inv (h : Inv s) (hp : exchangePhase s.phase = true) :
    Inv (rxParityError s) := by
  have hhalt := exchange_ne_halt hp
  obtain ⟨hv, hr⟩ := h.documented.active hp
  unfold rxParityError
  dsimp only
  split
  · exact halt_inv_of_stored (failureCounted_stored h hhalt) hv hr (h.not_expired hp) (by simp)
  · next hlt =>
    have hsig := (inRange_of_legal h.bounded.config).errSignal
    have hpulled := signalled_inv (failureCounted_inv h hhalt hlt) hp
      { s.line with ioDrv := false, errsigCnt := BitVec.ofNat 2 s.config.errSignalEtu } rfl
      (by rcases hsig with he | he <;> simp [he]) (by rcases hsig with he | he <;> simp [he])
    rw [emit_driveIo]
    exact hpulled.emits [driveIoWord s.ident false]

/-! ### The first byte after an ATR that offers PPS (R134) -/

theorem toExchange_inv (h : Inv s) (hp : s.phase = .atrDelivery) (hd : s.atr.done = true) :
    Inv { s with phase := .tpduExchange } := by
  have hex : exchangePhase s.phase = true := by rw [hp]; rfl
  have harmed := h.documented.armed.2 (Or.inl ⟨hp, hd⟩)
  have hbelow := h.bounded.waiting
  rw [if_neg harmed] at hbelow
  exact enteredExchange_inv h hex ⟨rfl, rfl, rfl, rfl, rfl, rfl⟩ { h.stored with } rfl
    (h.bounded.noResponse (by simp [hp]) (by simp [hp]))
    ⟨harmed, h.bounded.waitValue harmed, hbelow, h.not_expired hex⟩

/-- The first byte of a PPS request (R134). -/
theorem toPps_inv (h : Inv s) (hp : s.phase = .atrDelivery) (hd : s.atr.done = true) :
    Inv { s with
      phase := .ppsNegotiation
      pps := { s.pps with req := wrBuf s.pps.req 0 0xFF, reqLen := 1, expLen := 0 } } := by
  have hex : exchangePhase s.phase = true := by rw [hp]; rfl
  have harmed := h.documented.armed.2 (Or.inl ⟨hp, hd⟩)
  have hact := h.documented.active hex
  have hdir := h.documented.direction
  rw [if_pos hex] at hdir
  have hresp := h.bounded.noResponse (by simp [hp]) (by simp [hp])
  have hidle : s.seq.txActive = false := by rw [h.bounded.delivering hp, hd]; rfl
  have hretry := h.bounded.retry
  have hbufs := h.bounded.ppsBufs
  refine ⟨?_, ?_⟩
  · exact { h.documented with
      armed := by simpa using harmed
      active := fun _ => hact
      powered := by simp
      unpowered := by simp
      direction := hdir
      deliveryIdx := by simp [midDelivery]
      ppsOffered := fun _ => h.documented.ppsOffered (Or.inr ⟨hp, hd⟩) }
  · exact { h.bounded with
      ppsBufs := ⟨by rw [← hbufs.1]; exact wrBuf_length _ _ _, hbufs.2⟩
      ppsLens := ⟨by simp, h.bounded.ppsLens.2⟩
      collecting := fun _ _ => Or.inl ⟨rfl, rfl⟩
      responding := fun _ => by simp [hidle, hresp]
      noResponse := by simp
      delivering := by simp
      retry := ⟨hretry.1, fun _ => hretry.2 (by simp [hp])⟩
      cause := by simp [cause_none h (exchange_ne_halt hex)]
      expired := by simp [h.not_expired hex]
      quiet := by simp [exchangePhase]
      haltReleased := by simp }

theorem firstByte_inv (h : Inv s) (hp : s.phase = .atrDelivery) (hd : s.atr.done = true)
    (b : Byte) : Inv (firstByte b s) := by
  unfold firstByte
  split
  · exact (toPps_inv h hp hd).emits _
  · rw [kick_eq, emit_rxDeliver]
    exact afterKick_inv (((toExchange_inv h hp hd).emits _).emits _)

/-! ### The PPS request (R184, R185) -/

/-- `PPS_EXP_LEN` after the second byte: between 3 and 6 (R184). -/
theorem ppsExpectedLen_bounds (b : Byte) :
    3 ≤ (ppsExpectedLen b).toNat ∧ (ppsExpectedLen b).toNat ≤ 6 := by
  have hpop : popcount (b.extractLsb' 4 3) ≤ 3 := by
    generalize b.extractLsb' 4 3 = v
    revert v; decide
  unfold ppsExpectedLen
  rw [BitVec.toNat_ofNat, Nat.mod_eq_of_lt (by omega)]
  omega

/-- A request with one byte more has 2 to 6 bytes, and no more than are expected of it (R184). -/
theorem ppsAppend_lengths (h : Inv s) (hp : s.phase = .ppsNegotiation) (hr : s.pps.respLen = 0)
    (b : Byte) :
    2 ≤ (ppsAppend b s.pps).reqLen.toNat ∧
      (ppsAppend b s.pps).reqLen.toNat ≤ (ppsAppend b s.pps).expLen.toNat ∧
      (ppsAppend b s.pps).expLen.toNat ≤ 6 := by
  unfold ppsAppend
  dsimp only
  rcases h.bounded.collecting hp hr with ⟨hone, hexp⟩ | ⟨htwo, hlt, hsix⟩
  · obtain ⟨hlow, hhigh⟩ := ppsExpectedLen_bounds b
    rw [hone, if_pos (by decide)]
    exact ⟨by decide, Nat.le_trans (by decide) hlow, hhigh⟩
  · have hsucc : (s.pps.reqLen + 1).toNat = s.pps.reqLen.toNat + 1 := by
      rw [BitVec.toNat_add]; simp; omega
    have hne : s.pps.reqLen + 1 ≠ 2 := by
      intro hx; rw [hx] at hsucc; simp at hsucc; omega
    rw [if_neg hne, hsucc]
    omega

/-- The request with one byte more, not yet evaluated. -/
theorem ppsAppended_stored (h : Inv s) (hp : s.phase = .ppsNegotiation) (hr : s.pps.respLen = 0)
    (b : Byte) : Stored { s with pps := ppsAppend b s.pps } := by
  obtain ⟨-, hle, hsix⟩ := ppsAppend_lengths h hp hr b
  have hbufs := h.bounded.ppsBufs
  exact { h.stored with
    ppsBufs := ⟨by rw [← hbufs.1]; exact wrBuf_length _ _ _, hbufs.2⟩
    ppsLens := ⟨Nat.le_trans hle hsix, h.bounded.ppsLens.2⟩ }

/-- A request still incomplete with one byte more keeps the invariant. -/
theorem ppsAppended_inv (h : Inv s) (hp : s.phase = .ppsNegotiation) (hr : s.pps.respLen = 0)
    (b : Byte) (hinc : (ppsAppend b s.pps).reqLen ≠ (ppsAppend b s.pps).expLen) :
    Inv { s with pps := ppsAppend b s.pps } := by
  obtain ⟨htwo, hle, hsix⟩ := ppsAppend_lengths h hp hr b
  have hstored := ppsAppended_stored h hp hr b
  have hlt : (ppsAppend b s.pps).reqLen.toNat < (ppsAppend b s.pps).expLen.toNat :=
    Nat.lt_of_le_of_ne hle (fun hx => hinc (BitVec.eq_of_toNat_eq hx))
  refine ⟨{ h.documented with }, ?_⟩
  exact { h.bounded with
    ppsBufs := hstored.ppsBufs
    ppsLens := hstored.ppsLens
    collecting := fun _ _ => Or.inr ⟨htwo, hlt, hsix⟩ }

/-- An accepted request: the response is owed and the line turned (R185 step 4). -/
theorem ppsAccept_inv (h : Inv s) (hp : s.phase = .ppsNegotiation) (hr : s.pps.respLen = 0)
    (b : Byte) {fi di : BitVec 4} (hfd : fdSupported s.config fi di = true) :
    Inv (ppsAccept fi di { s with pps := ppsAppend b s.pps }) := by
  obtain ⟨htwo, -, -⟩ := ppsAppend_lengths h hp hr b
  have hstored := ppsAppended_stored h hp hr b
  have hne : (ppsAppend b s.pps).reqLen ≠ 0 := by
    intro hx; rw [hx] at htwo; simp at htwo
  unfold ppsAccept
  rw [startTransmit_eq]
  refine Inv.emits ⟨?_, ?_⟩ _
  · exact { h.documented with
      direction := by simp [hp, exchangePhase]
      activeTx := by simp
      holding := by simp }
  · exact { h.bounded with
      ppsBufs := ⟨hstored.ppsBufs.1, hstored.ppsBufs.1⟩
      supported := ⟨h.bounded.supported.1, hfd⟩
      ppsLens := ⟨hstored.ppsLens.1, hstored.ppsLens.1, Nat.zero_le _⟩
      collecting := fun _ hx => absurd hx hne
      responding := fun _ => ⟨fun _ => hne, fun _ => rfl⟩
      noResponse := fun hx => absurd hp hx
      delivering := by simp [hp]
      quiet := by simp [hp, exchangePhase] }

theorem ppsCollect_inv (h : Inv s) (hp : s.phase = .ppsNegotiation) (hr : s.pps.respLen = 0)
    (b : Byte) : Inv (ppsCollect b s) := by
  have hex : exchangePhase s.phase = true := by rw [hp]; rfl
  obtain ⟨hv, hrst⟩ := h.documented.active hex
  have hstored := ppsAppended_stored h hp hr b
  obtain ⟨htwo, -, -⟩ := ppsAppend_lengths h hp hr b
  unfold ppsCollect
  dsimp only
  split
  · unfold ppsEval
    dsimp only
    split
    · exact halt_inv_of_stored hstored hv hrst (h.not_expired hex) (by simp)
    · split
      · next hfd => exact ppsAccept_inv h hp hr b hfd
      · exact halt_inv_of_stored hstored hv hrst (h.not_expired hex) (by simp)
  · next hinc => exact ppsAppended_inv h hp hr b (fun hx => hinc ⟨htwo, hx⟩)

/-! ### RXB (R132) -/

theorem rxb_inv (h : Inv s) (perr : Bool) (b : Byte) : Inv (rxb perr b s) := by
  unfold rxb
  split
  · next hrec =>
    have hrec : Receives s := (receiving_iff s).1 hrec
    dsimp only
    rw [show emit .resetWt s = afterRxRestart s from emit_resetWt s]
    split
    · exact rxParityError_inv (afterRxRestart_inv h) hrec.exchange
    · have hgood : Inv ((afterRxRestart s).withSeq { (afterRxRestart s).seq with retryCnt := 0 }) :=
        (afterRxRestart_inv h).withSeqRegs _ rfl (Nat.zero_le _) (fun _ => h.budget_pos)
      unfold rxGoodByte
      dsimp only
      rcases hrec with ⟨hp, hd⟩ | ⟨hp, hr⟩ | hp
      · rw [if_pos (by exact hp)]
        exact firstByte_inv hgood hp hd b
      · rw [if_neg (by simp [afterRxRestart, waitRestarted, hp]), if_pos (by exact hp)]
        exact ppsCollect_inv hgood hp hr b
      · rw [if_neg (by simp [afterRxRestart, waitRestarted, hp]),
          if_neg (by simp [afterRxRestart, waitRestarted, hp]), emit_rxDeliver]
        exact hgood.emits _
  · exact contractErrSet_inv h

end Sys2Proof.Proofs
end

section
/-! PROOFS. The invariant through `TXRDY` and `ETU`, and so through every step (41_protocol_fsm.md R133, R136, R137,
42_atr.md R164, R165, 43_pps_and_fd.md R186, R187, 44_framer.md R200 to R208, 45_timers.md R236). -/

namespace Sys2Proof.Proofs

open Sys2Proof Sys2Proof.Machine

variable {s : State}

/-! ### TXRDY -/

/-- A byte handed to a running transmitter keeps the invariant (R138, R219). -/
theorem txByte_inv (h : Inv s) (ha : s.seq.txActive = true) (b : Byte) :
    Inv (emit (.txByte b) s) := by
  have hdir : s.line.dir = 2 := h.documented.activeTx.1 ha
  have hex := h.active_exchange ha
  rw [emit_txByte]
  refine Inv.emits ⟨?_, ?_⟩ _
  · exact { h.documented with holding := fun _ => hdir }
  · exact { h.bounded with quiet := fun hx => absurd hex (by simpa using hx) }

theorem restartIfArmed_inv (h : Inv s) : Inv (restartIfArmed s) := by
  unfold restartIfArmed
  split
  · rw [emit_resetWt]; exact (waitRestarted_inv h).emits _
  · exact h

/-- A negative acknowledgement (R136). -/
theorem txNack_inv (h : Inv s) (ha : s.seq.txActive = true) : Inv (txNack s) := by
  have hex := h.active_exchange ha
  have hhalt := exchange_ne_halt hex
  obtain ⟨hv, hr⟩ := h.documented.active hex
  unfold txNack
  dsimp only
  split
  · exact (halt_inv_of_stored (failureCounted_stored h hhalt) hv hr (h.not_expired hex)
      (by simp)).returns _
  · next hlt =>
    exact (restartIfArmed_inv (txByte_inv (failureCounted_inv h hhalt hlt) ha _)).returns _

/-- The queue is the last source looked at; the running transmitter finds it in `TPDU_EXCHANGE` (R137). -/
theorem txFromQueue_inv (h : Inv s) (hp : s.phase = .tpduExchange) (ha : s.seq.txActive = true) :
    Inv (txFromQueue s) := by
  rw [txFromQueue_eq s hp]
  exact afterQueue_inv h hp ha

/-- Arming with a supported index starts the waiting time and clears its flags (R188, R216). -/
theorem waitArmed_running (hc : configLegal s.config = true)
    (hfd : fdSupported s.config s.fd.fi s.fd.di = true) : WaitRunning (waitArmed s) := by
  have hv : wtValue s.config s.fd.di ≠ 0 :=
    wtValue_ne_zero (inRange_of_legal hc) (supported_d s.fd.fi s.fd.di hfd)
  have hne : (wtValue s.config s.fd.di == 0) = false := beq_eq_false_iff_ne.2 hv
  refine ⟨hv, rfl, (counter_pos _).2 hv, ?_⟩
  show (s.wt.full && wtValue s.config s.fd.di == 0) = false
  rw [hne, Bool.and_false]

/-- The end of the PPS keeps the invariant: the pair it selected is in force, and armed with its own value
(R187). -/
theorem ppsEnded_inv (h : Inv s) (hp : s.phase = .ppsNegotiation) : Inv (ppsEnded s) := by
  have hfd := h.bounded.supported.2
  have hwait := waitArmed_running (s := { s with fd := { s.fd with fi := s.fd.nfi, di := s.fd.ndi } })
    h.bounded.config hfd
  refine enteredExchange_inv h (by rw [hp]; rfl) ⟨rfl, rfl, rfl, rfl, rfl, rfl⟩ ?_ rfl rfl
    ⟨hwait.armed, hwait.value, hwait.below, hwait.unexpired⟩
  exact { h.stored with
    divider := ⟨rfl, rfl⟩
    supported := ⟨hfd, hfd⟩
    ppsLens := ⟨h.bounded.ppsLens.1, Nat.zero_le _, Nat.le_refl _⟩ }

/-- The second source, at its end and short of it (R186, R187). -/
theorem txFromPps_inv (h : Inv s) (hp : s.phase = .ppsNegotiation ∨ s.phase = .tpduExchange)
    (ha : s.seq.txActive = true) : Inv (txFromPps s) := by
  unfold txFromPps
  split
  · next hpps =>
    have hresp : s.pps.respLen ≠ 0 := (h.bounded.responding hpps).1 ha
    split
    · next hlt =>
      have hsix := h.bounded.ppsLens.2.1
      have hsucc : (s.pps.respIdx + 1).toNat = s.pps.respIdx.toNat + 1 := by
        rw [BitVec.toNat_add]; simp; omega
      have hnext : Inv { s with pps := { s.pps with respIdx := s.pps.respIdx + 1 } } := by
        refine ⟨{ h.documented with }, ?_⟩
        exact { h.bounded with
          ppsLens := ⟨h.bounded.ppsLens.1, hsix, by rw [hsucc]; exact hlt⟩ }
      rw [send_eq]
      exact (afterSend_inv hnext ha _).returns _
    · rw [ppsComplete_eq]
      exact txFromQueue_inv (ppsEnded_inv h hpps) rfl ha
  · next hpps => exact txFromQueue_inv h (hp.resolve_left hpps) ha

/-- A delivery in flight is in its phase (R15). -/
theorem phase_of_midDelivery (hm : midDelivery s = true) : s.phase = .atrDelivery := by
  simp only [midDelivery, Bool.and_eq_true, beq_iff_eq] at hm
  exact hm.1

/-- The end of an ATR that offers no PPS (R165). -/
theorem atrEnded_inv (h : Inv s) (hm : midDelivery s = true) (hcap : s.atr.ppsCapable = false) :
    Inv (atrEnded s) := by
  have hp := phase_of_midDelivery hm
  have hwait := waitArmed_running h.bounded.config h.bounded.supported.1
  unfold atrEnded
  dsimp only
  rw [if_neg (by simp [hcap])]
  exact enteredExchange_inv h (by rw [hp]; rfl) ⟨rfl, rfl, rfl, rfl, rfl, rfl⟩ { h.stored with } rfl
    (h.bounded.noResponse (by simp [hp]) (by simp [hp]))
    ⟨hwait.armed, hwait.value, hwait.below, hwait.unexpired⟩

/-- The end of an ATR that offers PPS: nothing more to send, so the line is turned to receive in the same
event (R165, R133 step 5). -/
theorem atrEnded_txIdle_inv (h : Inv s) (hm : midDelivery s = true)
    (hcap : s.atr.ppsCapable = true) : Inv (afterTxIdle (atrEnded s)) := by
  have hp := phase_of_midDelivery hm
  have hex : exchangePhase s.phase = true := by rw [hp]; rfl
  have hwait := waitArmed_running (s := { s with atr := { s.atr with done := true } })
    h.bounded.config h.bounded.supported.1
  unfold atrEnded
  dsimp only
  rw [if_pos hcap]
  refine Inv.returns (Inv.emits ⟨?_, ?_⟩ _) _
  · exact { h.documented with
      armed := ⟨fun _ => Or.inl ⟨hp, rfl⟩, fun _ => hwait.armed⟩
      direction := by simp [waitArmed, hex]
      activeTx := by simp
      holding := by simp
      deliveryIdx := by simp [midDelivery, waitArmed]
      ppsOffered := fun _ => hcap }
  · exact { h.bounded with
      responding := by simp [waitArmed, hp]
      delivering := fun _ => rfl
      waiting := restarted_count_below _
      waitValue := fun _ => rfl
      expired := fun hx => absurd hx (by simpa using hwait.unexpired)
      quiet := fun hx => absurd hex (by simpa [waitArmed] using hx) }

/-- The first source, the search of `TXRDY` (R133 step 4, R164, R165). -/
theorem txFromAtr_inv (h : Inv s) (ha : s.seq.txActive = true) : Inv (txFromAtr s) := by
  unfold txFromAtr
  split
  · next hm =>
    have hp := phase_of_midDelivery hm
    split
    · next hlt =>
      have hlen := s.atr.len.isLt
      have hsucc : (s.atr.idx + 1).toNat = s.atr.idx.toNat + 1 := by
        rw [BitVec.toNat_add]; simp; omega
      have hnext : Inv { s with atr := { s.atr with idx := s.atr.idx + 1 } } := by
        refine ⟨?_, { h.bounded with }⟩
        exact { h.documented with deliveryIdx := fun _ => by rw [hsucc]; exact hlt }
      rw [send_eq]
      exact (afterSend_inv hnext ha _).returns _
    · rw [atrComplete_eq]
      cases hcap : s.atr.ppsCapable with
      | false =>
        have hend : (atrEnded s).phase = .tpduExchange := by simp [atrEnded, hcap, enterPhase]
        have hact : (atrEnded s).seq.txActive = true := by
          simpa [atrEnded, hcap, enterPhase, waitArmed] using ha
        exact txFromPps_inv (atrEnded_inv h hm hcap) (Or.inr hend) hact
      | true =>
        have hend : (atrEnded s).phase = .atrDelivery := by simp [atrEnded, hcap, waitArmed, hp]
        unfold txFromPps
        rw [if_neg (by simp [hend]), txFromQueue_idle _ (by simp [hend])]
        exact atrEnded_txIdle_inv h hm hcap
  · next hm =>
    have hp : s.phase = .ppsNegotiation ∨ s.phase = .tpduExchange := by
      have hex := h.active_exchange ha
      have hdel := h.bounded.delivering
      cases hp : s.phase <;> simp_all [exchangePhase, midDelivery]
    exact txFromPps_inv h hp ha

theorem txrdy_inv (h : Inv s) (n : Bool) : Inv (txrdy n s) := by
  unfold txrdy
  split
  · exact h.returns _
  · split
    · exact h.returns _
    · next hact =>
      have ha : s.seq.txActive = true := by simpa using hact
      split
      · exact txNack_inv h ha
      · rw [txAck_eq]
        exact txFromAtr_inv (acknowledged_inv h) ha

/-! ### ETU -/

/-- Steps 1 to 3 (R233 to R235). -/
theorem tickStart_inv (h : Inv s) : Inv (tickStart s) := by
  rw [← tickStart_eq]
  exact rstHoldStep_inv (errsigStep_inv (holdoffStep_inv h))

/-- A transmitted slot: the slot number stays within the character and its guard time (R204). -/
theorem framerTx_inv (h : Inv s) (hm : s.fr.mode = .tx) (lvl : Bool) : Inv (framerTx lvl s) := by
  have hguard := (inRange_of_legal h.bounded.config).guard_most
  have hex := h.mode_exchange (by simp [hm])
  unfold framerTx framerTxRegs
  dsimp only
  split
  · exact h.withFramer hex _ (fun hx => hx) rfl
  · next hlt =>
    have hnack := Bool.toNat_le (nackSample lvl s.fr)
    have hsucc : (s.fr.slot + 1).toNat = s.fr.slot.toNat + 1 := by
      rw [BitVec.toNat_add]; simp; omega
    refine h.withFramer hex _ (fun hx => hx) ?_
    simp only [hm, hsucc]
    omega

/-- A received slot: bits 1 to 9, the last of which performs `RXB` (R205). -/
theorem framerRxBit_inv (h : Inv s) (hm : s.fr.mode = .rx) (hle : s.fr.slot.toNat ≤ 9)
    (lvl : Bool) : Inv (framerRxBit lvl s) := by
  have hex := h.mode_exchange (by simp [hm])
  unfold framerRxBit
  dsimp only
  split
  · have hten : Inv (s.withFr { s.fr with
        shift := setSlot s.fr.shift s.fr.slot.toNat lvl,
        holdoff := turnaroundHoldoff s.config s.fr.holdoff, slot := 10 }) :=
      h.withFramer hex _ (fun hx => hx) (by simp [hm])
    exact rxb_inv hten _ _
  · have hsucc : (s.fr.slot + 1).toNat = s.fr.slot.toNat + 1 := by
      rw [BitVec.toNat_add]; simp; omega
    refine h.withFramer hex _ (fun hx => hx) ?_
    simp only [hm, hsucc]
    omega

/-- The guard slots 10 and 11, in which a low line performs `GVIOL` (R205). -/
theorem framerRxGuard_inv (h : Inv s) (hm : s.fr.mode = .rx) (lvl drv : Bool) :
    Inv (framerRxGuard lvl drv s) := by
  have hex := h.mode_exchange (by simp [hm])
  have hmoved : Inv (if s.fr.slot = 11 then s.withFr { s.fr with mode := .idle, slot := 0 }
      else s.withFr { s.fr with slot := 11 }) := by
    split
    · exact h.withFramer hex _ (fun hx => hx) rfl
    · exact h.withFramer hex _ (fun hx => hx) (by simp [hm])
  unfold framerRxGuard
  dsimp only
  split
  · exact gviol_inv hmoved
  · exact hmoved

/-- A start bit is looked for while the line is turned to receive (R206). -/
theorem framerIdle_inv (h : Inv s) (lvl drv : Bool) : Inv (framerIdle lvl drv s) := by
  unfold framerIdle
  split
  · next hstart =>
    have hex : exchangePhase s.phase = true := by
      by_contra hx
      have hdir := h.documented.direction
      rw [if_neg hx] at hdir
      rw [hdir] at hstart
      simp at hstart
    exact h.withFramer hex _ (fun hx => hx) (by simp)
  · exact h

theorem framerStep_inv (h : Inv s) (lvl drv : Bool) : Inv (framerStep lvl drv s) := by
  unfold framerStep
  cases hm : s.fr.mode with
  | tx => exact framerTx_inv h hm lvl
  | idle => exact framerIdle_inv h lvl drv
  | rx =>
    show Inv (framerRx lvl drv s)
    unfold framerRx
    split
    · next hle => exact framerRxBit_inv h hm hle lvl
    · exact framerRxGuard_inv h hm lvl drv

/-- Step 5, notification (R207). -/
theorem txNotify_inv (h : Inv s) : Inv (txNotify s) := by
  unfold txNotify
  split
  · next hc =>
    obtain ⟨-, hserv⟩ : s.fr.txrdyPend = true ∧ txServable s = true := by simpa using hc
    have htold : Inv (s.withFr { s.fr with txrdyPend := false, nackSeen := false }) :=
      h.withFramer (h.servable_exchange hserv) _ (fun hx => hx) h.bounded.slots
    exact txrdy_inv htold _
  · exact h

/-- Step 6: a count that reaches the value halts, and every other count is below it (R236). -/
theorem waitTick_inv (h : Inv s) : Inv (waitTick s) := by
  by_cases h0 : s.wt.ticks = 0
  · unfold waitTick; rw [if_pos h0]; exact h
  · have hlt := h.bounded.waiting
    rw [if_neg h0] at hlt
    by_cases hlast : s.wt.cnt.toNat + 1 < s.wt.ticks.toNat
    · obtain ⟨hk, he⟩ := waitTick_below s h0 hlast
      have hcnt : ∀ b, Inv { s with wt := { s.wt with cnt := s.wt.cnt + 1, half := b } } := fun b =>
        h.withWait _ rfl rfl (by rw [if_neg h0]; show (s.wt.cnt + 1).toNat < _; rw [hk]; exact hlast)
      rw [he]
      split
      · exact (hcnt true).emits _
      · exact hcnt s.wt.half
    · have hex : exchangePhase s.phase = true := by
        rcases h.documented.armed.1 h0 with hp | hp | hp <;> simp [hp, exchangePhase]
      obtain ⟨hv, hr⟩ := h.documented.active hex
      have hmax := s.wt.ticks.isLt
      have hk : (s.wt.cnt + 1).toNat = s.wt.cnt.toNat + 1 := by
        rw [BitVec.toNat_add]; simp; omega
      have hne : s.wt.cnt ≠ 0xFFFFFF := by
        intro hx; rw [hx] at hlt; simp at hlt; omega
      unfold waitTick
      rw [if_neg h0, if_neg hne]
      dsimp only
      rw [if_pos (by omega)]
      split
      · exact afterHalt_inv { h.stored with } hv hr (by simp) (fun _ => rfl)
      · exact afterHalt_inv { h.stored with } hv hr (by simp) (fun _ => rfl)

theorem etu_inv (h : Inv s) (rdr : Bool) : Inv (etu rdr s) := by
  unfold etu
  split
  · unfold etuSteps
    rw [tickStart_eq, waitTick_eq]
    exact waitTick_inv (txLoad_inv (txNotify_inv (framerStep_inv (tickStart_inv h) _ _)))
  · exact h

/-! ### Every step -/

/-- Every event on a created handle keeps the invariant. -/
theorem eventResult_inv (h : Inv s) (i : Instr) : Inv (eventResult i s) := by
  cases i with
  | init slot tc uart inep irqep => exact illegalWord_inv h
  | iochgVcc a => exact iochgVcc_inv h a
  | iochgRst a => exact iochgRst_inv h a
  | iochgClk a => exact h.withClk a
  | rxb perr b => exact rxb_inv h perr b
  | txrdy n => exact txrdy_inv h n
  | wthalf => exact wthalf_inv h
  | wtexp => exact wtexp_inv h
  | setatr bytes => exact setAtr_inv h bytes
  | txqapp bytes => exact txqApp_inv h bytes
  | gettxq => exact h.returns _
  | newtx => show Inv (kick s); rw [kick_eq]; exact afterKick_inv h
  | repstat => exact h.emits _
  | etu rdr => exact etu_inv h rdr
  | gviol => exact gviol_inv h

/-- Every event keeps the invariant: a first `INIT` establishes it, and nothing else is answered before that. -/
theorem exec_inv {i : Instr} {t : State} (h : Inv s) (ht : exec i s = .next t) : Inv t := by
  cases hi : s.ident.inited with
  | true => rw [eq_eventResult hi ht]; exact eventResult_inv h i
  | false =>
    rcases init_or_other i with ⟨slot, tc, uart, inep, irqep, rfl⟩ | hx
    · exact initEstablishesTheInvariant slot tc uart inep irqep s t hi h.bounded.config ht
    · rw [nothingButInitBeforeInit i s hi hx] at ht; cases ht

/-- Settles O50, by what stands on the event port. -/
theorem everyStepKeepsTheInvariant : Obligations.EveryStepKeepsTheInvariant := by
  unfold Obligations.EveryStepKeepsTheInvariant
  intro s t h ht
  have htaken : ∀ rest, Inv (s.takeEvent rest) := fun rest =>
    h.of_groups rfl rfl rfl rfl rfl rfl rfl rfl rfl rfl rfl rfl rfl rfl
  unfold step at ht
  cases hd : decode s.ports.events with
  | empty => rw [hd] at ht; injection ht with ht; rw [← ht]; exact h
  | instr i rest => rw [hd] at ht; exact exec_inv (htaken rest) ht
  | illegal rest =>
    rw [hd] at ht
    rw [(created_cases _ _ ht).2]
    exact illegalWord_inv (htaken rest)
  | badData => rw [hd] at ht; cases ht
  | owed => rw [hd] at ht; cases ht

end Sys2Proof.Proofs
end

section
/-! PROOFS. What the events read and what they write (10_state.md R20, R42): a relation between states that looks at
what the operations read, and that their writes keep, is kept by every event. The statements about what no event
writes and about what no event reads are this fact for three relations. -/

namespace Sys2Proof.Proofs

open Sys2Proof Sys2Proof.Machine

/-- What two states have in common when no operation of an event can tell them apart: every register but the USB
endpoints (R21) and the divider's copies (R189), and the configuration. -/
structure ReadAlike (s t : State) : Prop where
  slot : t.ident.slot = s.ident.slot
  tcChan : t.ident.tcChan = s.ident.tcChan
  uartChan : t.ident.uartChan = s.ident.uartChan
  inited : t.ident.inited = s.ident.inited
  phase : t.phase = s.phase
  lines : t.lines = s.lines
  atr : t.atr = s.atr
  patr : t.patr = s.patr
  fd : t.fd = s.fd
  wt : t.wt = s.wt
  pps : t.pps = s.pps
  seq : t.seq = s.seq
  err : t.err = s.err
  txq : t.txq = s.txq
  line : t.line = s.line
  fr : t.fr = s.fr
  rstHoldCnt : t.eng.rstHoldCnt = s.eng.rstHoldCnt
  config : t.config = s.config

/-- A relation that sees what operations read, and that is kept when both states are written alike. Identity and
latches are not among the writes, and of the F/D indices only those a PPS selects are: whoever writes the others
gives a reason of its own. -/
structure Parametric (R : State → State → Prop) : Prop where
  reads : ∀ {s t}, R s t → ReadAlike s t
  withPhase : ∀ {s t} v, R s t → R (s.withPhase v) (t.withPhase v)
  withAtr : ∀ {s t} v, R s t → R (s.withAtr v) (t.withAtr v)
  withPatr : ∀ {s t} v, R s t → R (s.withPatr v) (t.withPatr v)
  withSelected : ∀ {s t} fi di, R s t →
    R (s.withFd { s.fd with nfi := fi, ndi := di }) (t.withFd { t.fd with nfi := fi, ndi := di })
  withWt : ∀ {s t} v, R s t → R (s.withWt v) (t.withWt v)
  withPps : ∀ {s t} v, R s t → R (s.withPps v) (t.withPps v)
  withSeq : ∀ {s t} v, R s t → R (s.withSeq v) (t.withSeq v)
  withErr : ∀ {s t} v, R s t → R (s.withErr v) (t.withErr v)
  withTxq : ∀ {s t} v, R s t → R (s.withTxq v) (t.withTxq v)
  withLine : ∀ {s t} v, R s t → R (s.withLine v) (t.withLine v)
  withFr : ∀ {s t} v, R s t → R (s.withFr v) (t.withFr v)
  withDivider : ∀ {s t} f d, R s t →
    R (s.withEng { s.eng with engF := f, engD := d }) (t.withEng { t.eng with engF := f, engD := d })
  withHold : ∀ {s t} n, R s t →
    R (s.withEng { s.eng with rstHoldCnt := n }) (t.withEng { t.eng with rstHoldCnt := n })
  emits : ∀ {s t} ws, R s t → R (s.emits ws) (t.emits ws)
  returns : ∀ {s t} v, R s t → R (s.returns v) (t.returns v)

section

variable {R : State → State → Prop} {s t : State} (P : Parametric R) (h : R s t)

/-- A choice by a condition that both states share. -/
theorem ite_related {c : Prop} [Decidable c] {a b a' b' : State} (hpos : R a b) (hneg : R a' b') :
    R (if c then a else a') (if c then b else b') := by
  split
  · exact hpos
  · exact hneg

include P h

/-! ### A register group as a function of what it held -/

theorem modAtr_related (f : AtrHolder → AtrHolder) : R (s.withAtr (f s.atr)) (t.withAtr (f t.atr)) := by
  rw [(P.reads h).atr]; exact P.withAtr _ h

theorem modWt_related (f : WaitRegs → WaitRegs) : R (s.withWt (f s.wt)) (t.withWt (f t.wt)) := by
  rw [(P.reads h).wt]; exact P.withWt _ h

theorem modPps_related (f : PpsRegs → PpsRegs) : R (s.withPps (f s.pps)) (t.withPps (f t.pps)) := by
  rw [(P.reads h).pps]; exact P.withPps _ h

theorem modSeq_related (f : SeqRegs → SeqRegs) : R (s.withSeq (f s.seq)) (t.withSeq (f t.seq)) := by
  rw [(P.reads h).seq]; exact P.withSeq _ h

theorem modErr_related (f : ErrRegs → ErrRegs) : R (s.withErr (f s.err)) (t.withErr (f t.err)) := by
  rw [(P.reads h).err]; exact P.withErr _ h

theorem modLine_related (f : LineCtl → LineCtl) : R (s.withLine (f s.line)) (t.withLine (f t.line)) := by
  rw [(P.reads h).line]; exact P.withLine _ h

theorem modFr_related (f : FramerRegs → FramerRegs) : R (s.withFr (f s.fr)) (t.withFr (f t.fr)) := by
  rw [(P.reads h).fr]; exact P.withFr _ h

/-! ### Outputs -/

theorem commandEffect_related (c : Command) : R (commandEffect c s) (commandEffect c t) := by
  cases c with
  | setFd f d => exact P.withDivider f d h
  | updateWt v => exact modWt_related P h fun w => ⟨v, 0, w.half && v == 0, w.full && v == 0⟩
  | resetWt => exact modWt_related P h fun w => { w with cnt := 0, half := false }
  | driveIo level => exact modLine_related P h fun l => { l with ioDrv := level }
  | txByte b => exact modFr_related P h fun f => { f with thr := b, thrValid := true }
  | requestIrq => exact modFr_related P h fun f => { f with txrdyPend := true }
  | waitTxIdle | rxDeliver _ | status _ _ _ => exact h
  | enable mask =>
    have hdir := modLine_related P h fun l => { l with dir := mask }
    unfold commandEffect effEnable
    dsimp only
    refine ite_related ?_ (ite_related hdir ?_)
    · exact modFr_related P (modLine_related P h fun l => { l with dir := 0, errsigCnt := 0 })
        fun f => { f with
          mode := .idle, slot := 0, shift := 0, thrValid := false, txrdyPend := false,
          nackSeen := false, holdoff := 0 }
    · exact modFr_related P hdir
        fun f => { f with thrValid := false, txrdyPend := false, nackSeen := false }

omit P h in
/-- No command's effect touches the ports. -/
theorem commandEffect_ports (c : Command) (u : State) : (commandEffect c u).ports = u.ports := by
  cases c with
  | enable mask => unfold commandEffect effEnable; dsimp only; split_ifs <;> rfl
  | _ => rfl

omit P h in
theorem emit_eq_emits (c : Command) (u : State) :
    emit c u = (commandEffect c u).emits (commandWords u.ident c) := by
  rw [emit_eq, State.emits, commandEffect_ports]; rfl

/-- A command's words name the slot and the two channels, and no endpoint (R86). -/
theorem commandWords_alike (c : Command) : commandWords t.ident c = commandWords s.ident c := by
  have a := P.reads h
  cases c <;> simp only [commandWords, a.slot, a.tcChan, a.uartChan]

theorem emit_related (c : Command) : R (emit c s) (emit c t) := by
  rw [emit_eq_emits, emit_eq_emits, commandWords_alike P h]
  exact P.emits _ (commandEffect_related P h c)

theorem emitStatus_related : R (emitStatus s) (emitStatus t) := by
  have a := P.reads h
  have hrecord : statusCommand t = statusCommand s := by
    simp only [statusCommand, statusW1, statusW2, statusW3, a.fd, a.seq, a.err, a.phase, a.atr, a.patr,
      a.wt, a.lines, a.txq, a.config]
  unfold emitStatus
  rw [hrecord]
  exact emit_related P h _

theorem contractError_related : R (contractError s) (contractError t) :=
  modErr_related P h fun e => { e with contractErr := true }

/-! ### The shared operations -/

theorem clearSession_related : R (clearSession s) (clearSession t) := by
  have hatr := modAtr_related P (P.withSeq ⟨0, 0, false, false⟩ (P.withTxq txqFlush h))
    fun a => { a with idx := 0, done := false, ppsCapable := false }
  have herr := P.withErr ⟨.none, false⟩
    (P.withPps ⟨List.replicate 6 0, 0, 0, List.replicate 6 0, 0, 0⟩ hatr)
  exact P.withHold 0 (modWt_related P herr fun w => { w with half := false, full := false })

theorem quiesce_related : R (quiesce s) (quiesce t) :=
  emit_related P (emit_related P (emit_related P h _) _) _

theorem halt_related (cause : ErrCause) : R (halt cause s) (halt cause t) :=
  emitStatus_related P
    (modSeq_related P
      (modErr_related P (P.withPhase .errorHalt (quiesce_related P h)) fun e => { e with cause := cause })
      fun q => { q with txActive := false })

theorem powerOff_related : R (powerOff s) (powerOff t) :=
  emitStatus_related P (P.withPhase .poweredOff (clearSession_related P (quiesce_related P h)))

theorem applyPendingAtr_related : R (applyPendingAtr s) (applyPendingAtr t) := by
  unfold applyPendingAtr
  rw [(P.reads h).patr]
  exact ite_related
    (P.withPatr _ (modAtr_related P h fun a => { a with buf := s.patr.buf, len := s.patr.len })) h

theorem emitSetFd_related : R (emitSetFd s) (emitSetFd t) := by
  unfold emitSetFd
  rw [(P.reads h).config, (P.reads h).fd]
  exact emit_related P h _

theorem restartIfArmed_related : R (restartIfArmed s) (restartIfArmed t) := by
  unfold restartIfArmed wtArmed
  rw [(P.reads h).wt]
  exact ite_related (emit_related P h _) h

theorem send_related (b : Byte) : R (send b s) (send b t) :=
  restartIfArmed_related P
    (emit_related P
      (modSeq_related P h fun q => { q with txLast := b, txLastValid := true, txActive := true }) _)

theorem startTransmit_related : R (startTransmit s) (startTransmit t) :=
  emit_related P (emit_related P (modSeq_related P h fun q => { q with txActive := true }) _) _

theorem kick_related : R (kick s) (kick t) := by
  unfold kick
  rw [(P.reads h).phase, (P.reads h).txq, (P.reads h).seq]
  exact ite_related (startTransmit_related P h) h

theorem setAtr_related (bytes : List Byte) : R (setAtr bytes s) (setAtr bytes t) := by
  unfold setAtr midDelivery
  rw [(P.reads h).config, (P.reads h).phase, (P.reads h).atr, (P.reads h).patr]
  exact ite_related (P.returns _ h)
    (ite_related (P.returns _ h)
      (ite_related (P.returns _ (P.withPatr _ h)) (P.returns _ (P.withPatr _ (P.withAtr _ h)))))

theorem txqApp_related (bytes : List Byte) : R (txqApp bytes s) (txqApp bytes t) := by
  unfold txqApp
  rw [(P.reads h).config, (P.reads h).txq]
  exact ite_related (P.returns _ h) (ite_related (P.returns _ h) (P.returns _ (P.withTxq _ h)))

/-! ### RXB and the PPS request -/

theorem ppsEval_related : R (ppsEval s) (ppsEval t) := by
  unfold ppsEval ppsAccept
  dsimp only [State.withFd_pps]
  rw [(P.reads h).config, (P.reads h).pps]
  exact ite_related (halt_related P h _)
    (ite_related (startTransmit_related P (P.withPps _ (P.withSelected _ _ h))) (halt_related P h _))

theorem ppsCollect_related (b : Byte) : R (ppsCollect b s) (ppsCollect b t) := by
  have hc := modPps_related P h (ppsAppend b)
  unfold ppsCollect
  dsimp only
  rw [(P.reads hc).pps]
  exact ite_related (ppsEval_related P hc) hc

theorem firstByte_related (b : Byte) : R (firstByte b s) (firstByte b t) := by
  unfold firstByte
  refine ite_related ?_ ?_
  · exact emitStatus_related P (modPps_related P (P.withPhase _ h)
      fun p => { p with req := wrBuf p.req 0 0xFF, reqLen := 1, expLen := 0 })
  · exact kick_related P (emit_related P (emitStatus_related P (P.withPhase _ h)) _)

theorem rxParityError_related : R (rxParityError s) (rxParityError t) := by
  have hc := modSeq_related P h fun q => { q with retryCnt := BitVec.ofNat 4 (q.retryCnt.toNat + 1) }
  unfold rxParityError
  dsimp only
  rw [(P.reads h).config, (P.reads h).seq]
  rw [(P.reads h).seq] at hc
  exact ite_related (halt_related P hc _)
    (modLine_related P (emit_related P hc _)
      fun l => { l with errsigCnt := BitVec.ofNat 2 s.config.errSignalEtu })

theorem rxGoodByte_related (b : Byte) : R (rxGoodByte b s) (rxGoodByte b t) := by
  have hg := modSeq_related P h fun q => { q with retryCnt := 0 }
  unfold rxGoodByte
  dsimp only
  rw [(P.reads hg).phase]
  exact ite_related (firstByte_related P hg b)
    (ite_related (ppsCollect_related P hg b) (emit_related P hg _))

theorem rxb_related (perr : Bool) (b : Byte) : R (rxb perr b s) (rxb perr b t) := by
  have hrec : receiving t = receiving s := by
    simp only [receiving, (P.reads h).phase, (P.reads h).atr, (P.reads h).pps]
  have hr := emit_related P h .resetWt
  unfold rxb
  dsimp only
  rw [hrec]
  exact ite_related
    (ite_related (rxParityError_related P hr) (rxGoodByte_related P hr b)) (contractError_related P h)

/-! ### The sources of TXRDY that leave F and D alone -/

theorem atrComplete_related : R (atrComplete s) (atrComplete t) := by
  have ha := modAtr_related P h fun a => { a with done := true }
  have hw := emit_related P ha (.updateWt (wtValue s.config s.fd.di))
  unfold atrComplete
  dsimp only
  rw [(P.reads h).config, (P.reads h).fd, (P.reads hw).atr]
  exact ite_related hw (emitStatus_related P (P.withPhase _ hw))

theorem txNack_related : R (txNack s) (txNack t) := by
  have hc := modSeq_related P h fun q => { q with retryCnt := BitVec.ofNat 4 (q.retryCnt.toNat + 1) }
  unfold txNack
  dsimp only [State.withSeq_seq]
  rw [(P.reads h).config, (P.reads h).seq]
  rw [(P.reads h).seq] at hc
  exact ite_related (P.returns _ (halt_related P hc _))
    (P.returns _ (restartIfArmed_related P (emit_related P hc _)))

theorem txAck_related : R (txAck s) (txAck t) := by
  unfold txAck
  rw [(P.reads h).seq]
  exact ite_related (P.withSeq _ h) h

theorem txIdle_related : R (txIdle s) (txIdle t) :=
  P.returns _ (emit_related P (modSeq_related P h fun q => { q with txActive := false }) _)

theorem txFromQueue_related : R (txFromQueue s) (txFromQueue t) := by
  unfold txFromQueue
  rw [(P.reads h).phase, (P.reads h).txq]
  exact ite_related (P.returns _ (send_related P (P.withTxq _ h) _)) (txIdle_related P h)

/-! ### The timers and the framer -/

theorem wthalf_related : R (wthalf s) (wthalf t) := by
  unfold wthalf wtArmed
  rw [(P.reads h).wt]
  exact ite_related (emitStatus_related P (P.withWt _ h)) (contractError_related P h)

theorem wtexp_related : R (wtexp s) (wtexp t) := by
  unfold wtexp wtArmed
  rw [(P.reads h).wt, (P.reads h).phase]
  exact ite_related (halt_related P (P.withWt _ h) _) (ite_related h (contractError_related P h))

theorem gviol_related : R (gviol s) (gviol t) := by
  unfold gviol
  rw [(P.reads h).phase]
  exact ite_related (halt_related P h _) (contractError_related P h)

theorem holdoffStep_related : R (holdoffStep s) (holdoffStep t) := by
  unfold holdoffStep
  rw [(P.reads h).fr]
  exact ite_related (P.withFr _ h) h

theorem errsigStep_related : R (errsigStep s) (errsigStep t) := by
  have hd := modLine_related P h fun l => { l with errsigCnt := l.errsigCnt - 1 }
  unfold errsigStep
  dsimp only
  rw [(P.reads hd).line, (P.reads h).line]
  rw [(P.reads h).line] at hd
  exact ite_related (ite_related (emit_related P hd _) hd) h

theorem rstHoldStep_related : R (rstHoldStep s) (rstHoldStep t) := by
  unfold rstHoldStep
  rw [(P.reads h).phase, (P.reads h).lines, (P.reads h).rstHoldCnt]
  exact ite_related (P.withHold _ h) h

theorem tickCounters_related :
    R (rstHoldStep (errsigStep (holdoffStep s))) (rstHoldStep (errsigStep (holdoffStep t))) :=
  rstHoldStep_related P (errsigStep_related P (holdoffStep_related P h))

theorem wtHalfStep_related : R (wtHalfStep s) (wtHalfStep t) := by
  unfold wtHalfStep
  rw [(P.reads h).wt]
  exact ite_related (wthalf_related P h) h

theorem wtFullStep_related : R (wtFullStep s) (wtFullStep t) := by
  unfold wtFullStep wtArmed
  rw [(P.reads h).wt]
  exact ite_related (wtexp_related P h) h

theorem wtStep_related : R (wtStep s) (wtStep t) := by
  have hc := modWt_related P h wtCount
  unfold wtStep
  rw [show wtArmed t = wtArmed s by simp only [wtArmed, (P.reads h).wt]]
  exact ite_related (wtFullStep_related P (wtHalfStep_related P hc)) h

theorem framerTx_related (lvl : Bool) : R (framerTx lvl s) (framerTx lvl t) := by
  unfold framerTx
  rw [(P.reads h).config]
  exact modFr_related P h _

theorem framerRxBit_related (lvl : Bool) : R (framerRxBit lvl s) (framerRxBit lvl t) := by
  unfold framerRxBit
  dsimp only
  rw [(P.reads h).fr, (P.reads h).config]
  exact ite_related (rxb_related P (P.withFr _ h) _ _) (P.withFr _ h)

theorem framerRxGuard_related (lvl drv : Bool) :
    R (framerRxGuard lvl drv s) (framerRxGuard lvl drv t) := by
  unfold framerRxGuard
  dsimp only
  rw [(P.reads h).fr]
  have hmoved := ite_related (R := R) (c := s.fr.slot = 11)
    (P.withFr { s.fr with mode := .idle, slot := 0 } h) (P.withFr { s.fr with slot := 11 } h)
  exact ite_related (gviol_related P hmoved) hmoved

theorem framerStep_related (lvl drv : Bool) : R (framerStep lvl drv s) (framerStep lvl drv t) := by
  unfold framerStep
  rw [(P.reads h).fr]
  cases s.fr.mode with
  | tx => exact framerTx_related P h lvl
  | idle =>
    dsimp only
    unfold framerIdle
    rw [(P.reads h).line, (P.reads h).fr]
    exact ite_related (P.withFr _ h) h
  | rx =>
    dsimp only
    unfold framerRx
    rw [(P.reads h).fr]
    exact ite_related (framerRxBit_related P h lvl) (framerRxGuard_related P h lvl drv)

theorem txServable_alike : txServable t = txServable s := by
  simp only [txServable, (P.reads h).line, (P.reads h).fr]

theorem txLoad_related : R (txLoad s) (txLoad t) := by
  unfold txLoad
  rw [txServable_alike P h, (P.reads h).fr]
  exact ite_related (P.withFr _ h) h

theorem startDelivery_related : R (startDelivery s) (startDelivery t) := by
  have hatr := modAtr_related P (P.withPhase .atrDelivery h)
    fun a => { a with idx := 0, done := false, ppsCapable := (rdBuf a.buf 1).getLsbD 4 }
  have hen := emit_related P (modSeq_related P hatr fun q => { q with txActive := true }) (.enable 2)
  unfold startDelivery
  dsimp only
  rw [(P.reads h).config]
  exact emitStatus_related P
    (emit_related P (modFr_related P hen
      fun f => { f with holdoff := BitVec.ofNat 8 s.config.atrDelayEtu }) _)

end

/-! ### What writes the F/D indices in force: a reset event, and the end of a PPS -/

section

variable {R : State → State → Prop} {s t : State} (P : Parametric R)
  (F : ∀ {s t : State} v, R s t → R (s.withFd v) (t.withFd v)) (h : R s t)

include P F h

theorem resetEvent_related : R (resetEvent s) (resetEvent t) := by
  have ha := applyPendingAtr_related P (clearSession_related P (quiesce_related P h))
  unfold resetEvent
  dsimp only
  rw [(P.reads ha).config]
  exact emitStatus_related P (P.withPhase _ (emitSetFd_related P (F _ ha)))

theorem ppsComplete_related : R (ppsComplete s) (ppsComplete t) := by
  have hw := emit_related P h .waitTxIdle
  have hf : R (emitSetFd ((emit .waitTxIdle s).withFd
      { (emit .waitTxIdle s).fd with fi := (emit .waitTxIdle s).fd.nfi, di := (emit .waitTxIdle s).fd.ndi }))
      (emitSetFd ((emit .waitTxIdle t).withFd
      { (emit .waitTxIdle t).fd with fi := (emit .waitTxIdle t).fd.nfi, di := (emit .waitTxIdle t).fd.ndi })) := by
    rw [(P.reads hw).fd]
    exact emitSetFd_related P (F _ hw)
  unfold ppsComplete
  dsimp only
  rw [(P.reads hf).config, (P.reads hf).fd]
  exact emitStatus_related P (P.withPhase _
    (modPps_related P (emit_related P hf _) fun p => { p with respLen := 0, respIdx := 0 }))

theorem txFromPps_related : R (txFromPps s) (txFromPps t) := by
  unfold txFromPps
  rw [(P.reads h).phase, (P.reads h).pps]
  exact ite_related
    (ite_related (P.returns _ (send_related P (P.withPps _ h) _))
      (ite_related (txFromQueue_related P (ppsComplete_related P F h)) (txFromQueue_related P h)))
    (txFromQueue_related P h)

theorem txFromAtr_related : R (txFromAtr s) (txFromAtr t) := by
  unfold txFromAtr midDelivery
  rw [(P.reads h).phase, (P.reads h).atr]
  exact ite_related
    (ite_related (P.returns _ (send_related P (P.withAtr _ h) _))
      (txFromPps_related P F (atrComplete_related P h)))
    (txFromPps_related P F h)

theorem txrdy_related (n : Bool) : R (txrdy n s) (txrdy n t) := by
  unfold txrdy
  rw [(P.reads h).phase, (P.reads h).seq]
  exact ite_related (P.returns _ h)
    (ite_related (P.returns _ h)
      (ite_related (txNack_related P h) (txFromAtr_related P F (txAck_related P h))))

theorem txNotify_related : R (txNotify s) (txNotify t) := by
  unfold txNotify
  rw [txServable_alike P h, (P.reads h).fr]
  exact ite_related (txrdy_related P F (P.withFr _ h) _) h

theorem etu_related (rdr : Bool) : R (etu rdr s) (etu rdr t) := by
  have hin : ioIn rdr t = ioIn rdr s := by simp only [ioIn, ioOut, (P.reads h).line, (P.reads h).fr]
  unfold etu etuSteps
  rw [hin, (P.reads h).lines, (P.reads h).line]
  exact ite_related
    (wtStep_related P (txLoad_related P (txNotify_related P F
      (framerStep_related P (tickCounters_related P h) _ _)))) h

end

/-! ### The latches, and every event -/

/-- The latches after an event: `IOCHG` writes its own one (R23). -/
def latchesAfter : Instr → Lines → Lines
  | .iochgVcc a, l => { l with vcc := a }
  | .iochgRst a, l => { l with rst := a }
  | .iochgClk a, l => { l with clk := a }
  | .init _ _ _ _ _, l | .rxb _ _, l | .txrdy _, l | .wthalf, l | .wtexp, l | .setatr _, l
  | .txqapp _, l | .gettxq, l | .newtx, l | .repstat, l | .etu _, l | .gviol, l => l

/-- The state with the latches an event leaves, before anything else of it is done. -/
def latched (i : Instr) (s : State) : State := s.withLines (latchesAfter i s.lines)

/-- What a change of VCC from the level `old` does once the latch is written (R112). -/
def afterVcc (old active : Bool) (l : State) : State :=
  if old = false ∧ active = true then if l.lines.rst then resetEvent l else l
  else if old = true ∧ active = false then powerOff l
  else l

theorem iochgVcc_eq (a : Bool) (s : State) :
    iochgVcc a s = afterVcc s.lines.vcc a (latched (.iochgVcc a) s) := rfl

/-- What a change of RST from the level `old` does once the latch is written (R113). -/
def afterRst (old active : Bool) (l : State) : State :=
  if old = false ∧ active = true then if l.lines.vcc then resetEvent l else l
  else if old = true ∧ active = false then
    if l.phase = .resetAsserted ∧ l.config.resetHoldMinEtu ≤ l.eng.rstHoldCnt.toNat then
      if atrValid l.config l.atr.buf l.atr.len.toNat then startDelivery l else halt .atrMalformed l
    else l
  else l

theorem iochgRst_eq (a : Bool) (s : State) :
    iochgRst a s = afterRst s.lines.rst a (latched (.iochgRst a) s) := rfl

section

variable {R : State → State → Prop} {s t : State} (P : Parametric R)
  (F : ∀ {s t : State} v, R s t → R (s.withFd v) (t.withFd v))

include P F

theorem afterVcc_related (old a : Bool) (h : R s t) : R (afterVcc old a s) (afterVcc old a t) := by
  unfold afterVcc
  rw [(P.reads h).lines]
  exact ite_related (ite_related (resetEvent_related P F h) h) (ite_related (powerOff_related P h) h)

theorem afterRst_related (old a : Bool) (h : R s t) : R (afterRst old a s) (afterRst old a t) := by
  unfold afterRst
  rw [(P.reads h).lines, (P.reads h).phase, (P.reads h).config, (P.reads h).rstHoldCnt,
    (P.reads h).atr]
  exact ite_related (ite_related (resetEvent_related P F h) h)
    (ite_related
      (ite_related (ite_related (startDelivery_related P h) (halt_related P h _)) h) h)

/-- Every event on a created handle keeps a parametric relation that holds once the latches are written. -/
theorem eventResult_related (hl : t.lines = s.lines) (i : Instr) (h : R (latched i s) (latched i t)) :
    R (eventResult i s) (eventResult i t) := by
  cases i with
  | init slot tc uart inep irqep => exact P.returns _ (contractError_related P h)
  | iochgVcc a =>
    show R (iochgVcc a s) (iochgVcc a t)
    rw [iochgVcc_eq, iochgVcc_eq, hl]
    exact afterVcc_related P F _ a h
  | iochgRst a =>
    show R (iochgRst a s) (iochgRst a t)
    rw [iochgRst_eq, iochgRst_eq, hl]
    exact afterRst_related P F _ a h
  | iochgClk a => exact h
  | rxb perr b => exact rxb_related P h perr b
  | txrdy n => exact txrdy_related P F h n
  | wthalf => exact wthalf_related P h
  | wtexp => exact wtexp_related P h
  | setatr bytes => exact setAtr_related P h bytes
  | txqapp bytes => exact txqApp_related P h bytes
  | gettxq =>
    have hslot : t.ident.slot = s.ident.slot := (P.reads h).slot
    show R (s.returns _) (t.returns _)
    rw [hslot]
    exact P.returns _ h
  | newtx => exact kick_related P h
  | repstat => exact emitStatus_related P h
  | etu rdr => exact etu_related P F h rdr
  | gviol => exact gviol_related P h

end

end Sys2Proof.Proofs
end

section
/-! PROOFS. Three parametric relations, and the statements they give: what no event writes (10_state.md R21, R23, R42),
what the past outputs do to an event (R42), and the registers no rule reads (R21, R189). -/

namespace Sys2Proof.Proofs

open Sys2Proof Sys2Proof.Machine

theorem readAlike_refl (s : State) : ReadAlike s s := by constructor <;> rfl

/-- Both states are one state, and it has the value `x` of `f`: a relation that says what the writes keep. -/
def Keeping {α : Type} (f : State → α) (x : α) (s t : State) : Prop := t = s ∧ f s = x

/-! ### Identity, configuration and latches -/

/-- What no operation writes, once the latches are written. -/
def fixedPart (s : State) : Ident × Config × Lines := (s.ident, s.config, s.lines)

theorem fixedPart_parametric (x : Ident × Config × Lines) : Parametric (Keeping fixedPart x) := by
  constructor
  case reads => rintro s _ ⟨rfl, -⟩; exact readAlike_refl _
  case withSelected | withDivider => rintro s _ _ _ ⟨rfl, hx⟩; exact ⟨rfl, hx⟩
  all_goals rintro s _ _ ⟨rfl, hx⟩; exact ⟨rfl, hx⟩

/-- An event on a created handle keeps identity and configuration, and writes one latch at most. -/
theorem eventResult_fixedPart (i : Instr) (s : State) :
    fixedPart (eventResult i s) = (s.ident, s.config, latchesAfter i s.lines) :=
  (eventResult_related (fixedPart_parametric _) (fun _ ⟨he, hx⟩ => ⟨by rw [he], hx⟩) rfl i
    (show Keeping fixedPart _ (latched i s) (latched i s) from ⟨rfl, rfl⟩)).2

theorem eventResult_ident (i : Instr) (s : State) : (eventResult i s).ident = s.ident :=
  congrArg Prod.fst (eventResult_fixedPart i s)

theorem eventResult_config (i : Instr) (s : State) : (eventResult i s).config = s.config :=
  congrArg (·.2.1) (eventResult_fixedPart i s)

theorem eventResult_lines (i : Instr) (s : State) :
    (eventResult i s).lines = latchesAfter i s.lines :=
  congrArg (·.2.2) (eventResult_fixedPart i s)

/-- Settles O56: the fixed part of an event's result, latch by latch. -/
theorem identityAndLatchesHaveTheirWriters : Obligations.IdentityAndLatchesHaveTheirWriters := by
  unfold Obligations.IdentityAndLatchesHaveTheirWriters
  intro i s t hi ht
  rw [eq_eventResult hi ht, eventResult_ident, eventResult_config, eventResult_lines]
  refine ⟨rfl, rfl, fun hn => ?vcc, fun hn => ?rst, fun hn => ?clk⟩
  case vcc =>
    cases i with
    | iochgVcc a => exact absurd rfl (hn a)
    | _ => rfl
  case rst =>
    cases i with
    | iochgRst a => exact absurd rfl (hn a)
    | _ => rfl
  case clk =>
    cases i with
    | iochgClk a => exact absurd rfl (hn a)
    | _ => rfl

/-! ### Past outputs -/

/-- A machine whose trace has `p`'s outputs before its own, and whose event port is `p`'s. -/
def withPast (p : Ports) (s : State) : State :=
  s.withPorts
    { events := p.events, cmds := p.cmds ++ s.ports.cmds, rets := p.rets ++ s.ports.rets }

theorem withPast_parametric (p : Ports) : Parametric (fun s t => t = withPast p s) := by
  constructor
  case reads => rintro s _ rfl; constructor <;> rfl
  case withSelected | withDivider => rintro s _ _ _ rfl; rfl
  case emits =>
    rintro s _ ws rfl
    simp [State.emits, withPast, State.withPorts]
  case returns =>
    rintro s _ v rfl
    simp [State.returns, withPast, State.withPorts]
  all_goals rintro s _ _ rfl; rfl

/-- The past outputs stay in front of what an event puts out. -/
theorem eventResult_withPast (i : Instr) (p : Ports) (s : State) :
    eventResult i (withPast p s) = withPast p (eventResult i s) :=
  eventResult_related (s := s) (t := withPast p s) (withPast_parametric p)
    (by rintro s _ v rfl; rfl) rfl i rfl

/-- The registers of a machine under its configuration, nothing on the ports. -/
def portless (s : State) : State :=
  s.registers.machine s.config { events := [], cmds := [], rets := [] }

theorem withPast_portless (s : State) : withPast s.ports (portless s) = s := by
  simp [withPast, portless, State.withPorts, State.registers, Registers.machine]

/-- Putting a reaction back into the machine puts the past outputs in front of it. -/
theorem withReaction_eq_withPast {s u : State} (hc : u.config = s.config) :
    withReaction s { regs := u.registers, cmds := u.ports.cmds, rets := u.ports.rets } =
      withPast s.ports u := by
  unfold withReaction
  rw [← hc]; rfl

/-- `INIT` looks at the configuration only. -/
theorem initHandle_withPast (slot tc uart : BitVec 2) (inep irqep : BitVec 3) (p : Ports) {s : State}
    (hfit : s.config.defaultAtr.length ≤ s.config.atrMax) :
    initHandle slot tc uart inep irqep (withPast p s) =
      withPast p (initHandle slot tc uart inep irqep s) := by
  rw [initHandle_eq slot tc uart inep irqep hfit,
    initHandle_eq slot tc uart inep irqep (s := withPast p s) hfit]
  simp [State.emits, State.returns, withPast, State.withPorts, afterInit]

theorem initHandle_config (slot tc uart : BitVec 2) (inep irqep : BitVec 3) {s : State}
    (hfit : s.config.defaultAtr.length ≤ s.config.atrMax) :
    (initHandle slot tc uart inep irqep s).config = s.config := by
  rw [initHandle_eq slot tc uart inep irqep hfit]; rfl

/-- An event refuses a machine, or answers it with a state under the same configuration, whatever its past
outputs. -/
theorem exec_withPast (i : Instr) (s : State) :
    (∃ r, ∀ p, exec i (withPast p s) = .refused r) ∨
      ∃ u, u.config = s.config ∧ ∀ p, exec i (withPast p s) = .next (withPast p u) := by
  cases hi : s.ident.inited with
  | true =>
    refine Or.inr ⟨eventResult i s, eventResult_config i s, fun p => ?_⟩
    rw [exec_of_inited i (s := withPast p s) hi, eventResult_withPast]
  | false =>
    rcases init_or_other i with ⟨slot, tc, uart, inep, irqep, rfl⟩ | hx
    · have hcreate : ∀ p, exec (.init slot tc uart inep irqep) (withPast p s) =
          if configInRange s.config then .next (initHandle slot tc uart inep irqep (withPast p s))
          else .refused .illegalConfig := by
        intro p; simp only [exec, execInit, withPast, State.withPorts, hi]; rfl
      cases hc : configInRange s.config with
      | false => exact Or.inl ⟨_, fun p => by rw [hcreate, hc]; rfl⟩
      | true =>
        have hfit := (inRange_of_check hc).defaultAtr_fits
        refine Or.inr ⟨_, initHandle_config slot tc uart inep irqep hfit, fun p => ?_⟩
        rw [hcreate, hc, if_pos rfl, initHandle_withPast slot tc uart inep irqep p hfit]
    · exact Or.inl ⟨_, fun p => nothingButInitBeforeInit i (withPast p s) hi hx⟩

/-- Settles O58: the step relation sees the machine without its past, and `exec` the same machine with it. -/
theorem pastOutputsPlayNoPart : Obligations.PastOutputsPlayNoPart := by
  unfold Obligations.PastOutputsPlayNoPart
  intro i s
  have hbare : exec i (s.registers.machine s.config { events := [], cmds := [], rets := [] }) =
      exec i (withPast { events := [], cmds := [], rets := [] } (portless s)) := rfl
  unfold transition
  rw [hbare]
  conv_lhs => rw [← withPast_portless s]
  rcases exec_withPast i (portless s) with ⟨r, hr⟩ | ⟨u, hc, hu⟩
  · rw [hr, hr]; rfl
  · rw [hu, hu]
    exact congrArg Host.Outcome.next (withReaction_eq_withPast (s := s)
      (u := withPast { events := [], cmds := [], rets := [] } u) hc).symm

/-! ### USB endpoints and the divider's copies -/

theorem inertBlanked_parametric : Parametric (fun s t => inertBlanked s = inertBlanked t) := by
  constructor
  case reads =>
    intro s t h
    exact {
      slot := congrArg (·.ident.slot) h.symm
      tcChan := congrArg (·.ident.tcChan) h.symm
      uartChan := congrArg (·.ident.uartChan) h.symm
      inited := congrArg (·.ident.inited) h.symm
      phase := congrArg (·.phase) h.symm
      lines := congrArg (·.lines) h.symm
      atr := congrArg (·.atr) h.symm
      patr := congrArg (·.patr) h.symm
      fd := congrArg (·.fd) h.symm
      wt := congrArg (·.wt) h.symm
      pps := congrArg (·.pps) h.symm
      seq := congrArg (·.seq) h.symm
      err := congrArg (·.err) h.symm
      txq := congrArg (·.txq) h.symm
      line := congrArg (·.line) h.symm
      fr := congrArg (·.fr) h.symm
      rstHoldCnt := congrArg (·.eng.rstHoldCnt) h.symm
      config := congrArg (·.config) h.symm }
  case withPhase => exact fun v h => congrArg (·.withPhase v) h
  case withAtr => exact fun v h => congrArg (·.withAtr v) h
  case withPatr => exact fun v h => congrArg (·.withPatr v) h
  case withSelected =>
    exact fun fi di h => congrArg (fun u => u.withFd { u.fd with nfi := fi, ndi := di }) h
  case withWt => exact fun v h => congrArg (·.withWt v) h
  case withPps => exact fun v h => congrArg (·.withPps v) h
  case withSeq => exact fun v h => congrArg (·.withSeq v) h
  case withErr => exact fun v h => congrArg (·.withErr v) h
  case withTxq => exact fun v h => congrArg (·.withTxq v) h
  case withLine => exact fun v h => congrArg (·.withLine v) h
  case withFr => exact fun v h => congrArg (·.withFr v) h
  case withDivider => exact fun _ _ h => h
  case withHold => exact fun n h => congrArg (fun u => u.withEng { u.eng with rstHoldCnt := n }) h
  case emits => exact fun ws h => congrArg (·.emits ws) h
  case returns => exact fun v h => congrArg (·.returns v) h

/-- An event on created handles that differ in registers no rule reads. -/
theorem eventResult_inertBlanked (i : Instr) {s t : State} (h : inertBlanked s = inertBlanked t) :
    inertBlanked (eventResult i s) = inertBlanked (eventResult i t) :=
  eventResult_related inertBlanked_parametric (fun v h => congrArg (·.withFd v) h)
    (inertBlanked_parametric.reads h).lines i
    (congrArg (fun u => u.withLines (latchesAfter i u.lines)) h)

/-- `INIT` writes the endpoints and the divider anew. -/
theorem initHandle_of_inertBlanked (slot tc uart : BitVec 2) (inep irqep : BitVec 3) {s t : State}
    (h : inertBlanked s = inertBlanked t)
    (hfit : s.config.defaultAtr.length ≤ s.config.atrMax) :
    initHandle slot tc uart inep irqep s = initHandle slot tc uart inep irqep t := by
  have hc : t.config = s.config := (inertBlanked_parametric.reads h).config
  have hp : t.ports = s.ports := congrArg (·.ports) h.symm
  rw [initHandle_eq slot tc uart inep irqep hfit,
    initHandle_eq slot tc uart inep irqep (s := t) (by rw [hc]; exact hfit), hc, hp]

/-- Settles O59: on created handles by the relation, and before that because `INIT` reads neither and nothing
else is answered. -/
theorem endpointsAndDividerPlayNoPart : Obligations.EndpointsAndDividerPlayNoPart := by
  unfold Obligations.EndpointsAndDividerPlayNoPart
  intro i s t h
  have a := inertBlanked_parametric.reads h
  cases hi : s.ident.inited with
  | true =>
    rw [exec_of_inited i hi, exec_of_inited i (a.inited.trans hi)]
    exact congrArg Host.Outcome.next (eventResult_inertBlanked i h)
  | false =>
    have hit : t.ident.inited = false := a.inited.trans hi
    rcases init_or_other i with ⟨slot, tc, uart, inep, irqep, rfl⟩ | hx
    · cases hc : configInRange s.config with
      | false => simp [exec, execInit, hi, hit, a.config, hc]
      | true =>
        have hinit := initHandle_of_inertBlanked slot tc uart inep irqep h
          (inRange_of_check hc).defaultAtr_fits
        simp [exec, execInit, hi, hit, a.config, hc, hinit]
    · rw [nothingButInitBeforeInit i s hi hx, nothingButInitBeforeInit i t hit hx]

end Sys2Proof.Proofs
end

section
/-! PROOFS. Where the F/D indices in force are written: the reset event, and the `TXRDY` that ends a PPS, which an `ETU`
may perform (10_state.md R26, 43_pps_and_fd.md R187, 44_framer.md R207). -/

namespace Sys2Proof.Proofs

open Sys2Proof Sys2Proof.Machine

variable {s : State}

/-- The indices of F and D in force. -/
def fdInForce (s : State) : BitVec 4 × BitVec 4 := (s.fd.fi, s.fd.di)

theorem fdInForce_parametric (x : BitVec 4 × BitVec 4) : Parametric (Keeping fdInForce x) := by
  constructor
  case reads => rintro s _ ⟨rfl, -⟩; exact readAlike_refl _
  case withSelected | withDivider => rintro s _ _ _ ⟨rfl, hx⟩; exact ⟨rfl, hx⟩
  all_goals rintro s _ _ ⟨rfl, hx⟩; exact ⟨rfl, hx⟩

/-- A state keeps its own indices. -/
theorem keeping_self {α : Type} (f : State → α) (s : State) : Keeping f (f s) s s := ⟨rfl, rfl⟩

/-! ### The end of a PPS (R187) -/

/-- A PPS response of which no byte is left, and the exchange with the pair it selected. -/
structure PpsFinished (s t : State) : Prop where
  phase : s.phase = .ppsNegotiation
  owed : s.pps.respLen ≠ 0
  sent : s.pps.respLen.toNat ≤ s.pps.respIdx.toNat
  entered : t.phase = .tpduExchange
  inForce : fdInForce t = (s.fd.nfi, s.fd.ndi)

/-- A waiting time that has just been armed, or not at all: its value is a multiple of 64 (R188). -/
def FreshWait (s : State) : Prop := s.wt.cnt = 0 ∧ s.wt.ticks.toNat % 64 = 0

/-- A look at the queue changes no phase. -/
theorem txFromQueue_phase (hp : s.phase = .tpduExchange) : (txFromQueue s).phase = .tpduExchange := by
  rw [txFromQueue_eq s hp, ← hp]
  unfold afterQueue
  split <;> rfl

/-- A look at the queue may restart a fresh waiting time, and nothing more (R138). -/
theorem txFromQueue_freshWait (hp : s.phase = .tpduExchange) (hw : FreshWait s) :
    FreshWait (txFromQueue s) := by
  rw [txFromQueue_eq s hp]
  unfold afterQueue
  split
  · exact hw
  · unfold FreshWait afterSend
    dsimp only [returns_wt, emits_wt]
    split
    · exact hw
    · exact ⟨rfl, hw.2⟩

theorem ppsEnded_freshWait (s : State) : FreshWait (ppsEnded s) :=
  ⟨rfl, wtValue_mod s.config s.fd.ndi⟩

theorem txFromQueue_fd (s : State) : fdInForce (txFromQueue s) = fdInForce s :=
  (txFromQueue_related (fdInForce_parametric _) (keeping_self _ s)).2

/-- The second source of `TXRDY` (R186, R187). -/
theorem txFromPps_fd (s : State) :
    fdInForce (txFromPps s) = fdInForce s ∨
      (PpsFinished s (txFromPps s) ∧ FreshWait (txFromPps s)) := by
  have P := fdInForce_parametric (fdInForce s)
  unfold txFromPps
  split
  · next hp =>
    split
    · exact Or.inl (P.returns _ (send_related P (P.withPps _ (keeping_self _ s)) _)).2
    · next hsent =>
      split
      · next howed =>
        rw [ppsComplete_eq]
        have hend : (ppsEnded s).phase = .tpduExchange := rfl
        refine Or.inr ⟨⟨hp, howed, Nat.le_of_not_lt hsent, txFromQueue_phase hend, ?_⟩,
          txFromQueue_freshWait hend (ppsEnded_freshWait s)⟩
        rw [txFromQueue_fd]; rfl
      · exact Or.inl (txFromQueue_fd s)
  · exact Or.inl (txFromQueue_fd s)

/-- The end of the ATR does not lead into `PPS_NEGOTIATION` (R165). -/
theorem atrComplete_phase (hm : midDelivery s = true) :
    (atrComplete s).phase ≠ .ppsNegotiation := by
  have hp := phase_of_midDelivery hm
  rw [atrComplete_eq]
  unfold atrEnded
  dsimp only
  split
  · simp [waitArmed, hp]
  · simp [enterPhase]

/-- The first source of `TXRDY` (R164, R165). -/
theorem txFromAtr_fd (s : State) :
    fdInForce (txFromAtr s) = fdInForce s ∨
      (PpsFinished s (txFromAtr s) ∧ FreshWait (txFromAtr s)) := by
  have P := fdInForce_parametric (fdInForce s)
  have hs := keeping_self fdInForce s
  unfold txFromAtr
  split
  · next hm =>
    split
    · exact Or.inl (P.returns _ (send_related P (P.withAtr _ hs) _)).2
    · have hq : txFromPps (atrComplete s) = txFromQueue (atrComplete s) := by
        unfold txFromPps
        rw [if_neg (atrComplete_phase hm)]
      rw [hq]
      exact Or.inl (txFromQueue_related P (atrComplete_related P hs)).2
  · exact txFromPps_fd s

/-- `TXRDY` leaves the indices alone, or ends a PPS and arms a fresh waiting time (R133). -/
theorem txrdy_fd (n : Bool) (s : State) :
    fdInForce (txrdy n s) = fdInForce s ∨
      (PpsFinished s (txrdy n s) ∧ FreshWait (txrdy n s)) := by
  unfold txrdy
  split
  · exact Or.inl rfl
  · split
    · exact Or.inl rfl
    · split
      · exact Or.inl (txNack_related (fdInForce_parametric _) (keeping_self _ s)).2
      · rw [txAck_eq]
        rcases txFromAtr_fd (acknowledged s) with hkept | ⟨hdone, hfresh⟩
        · exact Or.inl hkept
        · exact Or.inr ⟨⟨hdone.phase, hdone.owed, hdone.sent, hdone.entered, hdone.inForce⟩, hfresh⟩

/-! ### An ETU (R200, R207): what the framer leaves when the transmitter is served after it -/

/-- What the end of a PPS looks at is unchanged. -/
def SamePps (s t : State) : Prop := t.phase = s.phase ∧ t.pps = s.pps ∧ t.fd = s.fd

/-- A halted engine serves no transmitter (R142). -/
theorem halt_busy (c : ErrCause) (s : State) : txServable (halt c s) = false := by
  rw [halt_eq]
  simp [txServable, afterHalt, haltRegs, quietLine]

theorem busy_of_mode (h : s.fr.mode ≠ .idle) : txServable s = false := by
  simp [txServable, h]

theorem ppsEval_busy (hm : s.fr.mode ≠ .idle) : txServable (ppsEval s) = false := by
  unfold ppsEval ppsAccept
  dsimp only
  rw [startTransmit_eq]
  split
  · exact halt_busy _ _
  · split
    · exact busy_of_mode hm
    · exact halt_busy _ _

theorem ppsCollect_busy (hm : s.fr.mode ≠ .idle) (b : Byte) : txServable (ppsCollect b s) = false := by
  unfold ppsCollect
  dsimp only
  split
  · exact ppsEval_busy hm
  · exact busy_of_mode hm

theorem kick_busy (hm : s.fr.mode ≠ .idle) : txServable (kick s) = false := by
  rw [kick_eq]
  unfold afterKick
  split
  · exact busy_of_mode hm
  · exact busy_of_mode hm

theorem firstByte_busy (hm : s.fr.mode ≠ .idle) (b : Byte) : txServable (firstByte b s) = false := by
  unfold firstByte
  split
  · exact busy_of_mode hm
  · exact kick_busy hm

theorem rxParityError_busy (hm : s.fr.mode ≠ .idle) : txServable (rxParityError s) = false := by
  unfold rxParityError
  dsimp only
  split
  · exact halt_busy _ _
  · exact busy_of_mode hm

theorem rxGoodByte_busy (hm : s.fr.mode ≠ .idle) (b : Byte) : txServable (rxGoodByte b s) = false := by
  have hg : (s.withSeq { s.seq with retryCnt := 0 }).fr.mode ≠ .idle := hm
  unfold rxGoodByte
  dsimp only
  split
  · exact firstByte_busy hg b
  · split
    · exact ppsCollect_busy hg b
    · exact busy_of_mode hg

/-- A byte assembled while the framer still receives its character leaves the transmitter unserved. -/
theorem rxb_busy (hm : s.fr.mode ≠ .idle) (perr : Bool) (b : Byte) :
    txServable (rxb perr b s) = false := by
  have hr : (emit .resetWt s).fr.mode ≠ .idle := hm
  unfold rxb
  dsimp only
  split
  · split
    · exact rxParityError_busy hr
    · exact rxGoodByte_busy hr b
  · exact busy_of_mode hm

theorem framerRxBit_busy (hm : s.fr.mode ≠ .idle) (lvl : Bool) :
    txServable (framerRxBit lvl s) = false := by
  have hten : (s.withFr { s.fr with
      shift := setSlot s.fr.shift s.fr.slot.toNat lvl
      holdoff := turnaroundHoldoff s.config s.fr.holdoff, slot := 10 }).fr.mode ≠ .idle := hm
  unfold framerRxBit
  dsimp only
  split
  · exact rxb_busy hten _ _
  · exact busy_of_mode hm

/-- A guard violation halts, or is a contract error. -/
theorem gviol_samePps (hserv : txServable (gviol s) = true) : SamePps s (gviol s) := by
  unfold gviol at hserv ⊢
  split at hserv
  · rw [halt_busy] at hserv; cases hserv
  · next hp => rw [if_neg hp]; exact ⟨rfl, rfl, rfl⟩

theorem framerRxGuard_samePps (lvl drv : Bool)
    (hserv : txServable (framerRxGuard lvl drv s) = true) : SamePps s (framerRxGuard lvl drv s) := by
  have hmoved : SamePps s (if s.fr.slot = 11 then s.withFr { s.fr with mode := .idle, slot := 0 }
      else s.withFr { s.fr with slot := 11 }) := by
    split <;> exact ⟨rfl, rfl, rfl⟩
  unfold framerRxGuard at hserv ⊢
  dsimp only at hserv hmoved ⊢
  generalize (if s.fr.slot = 11 then _ else _ : State) = u at hserv hmoved ⊢
  by_cases hviol : lvl = false ∧ drv = true
  · rw [if_pos hviol] at hserv ⊢
    obtain ⟨hphase, hpps, hfd⟩ := hmoved
    obtain ⟨hvphase, hvpps, hvfd⟩ := gviol_samePps hserv
    exact ⟨hvphase.trans hphase, hvpps.trans hpps, hvfd.trans hfd⟩
  · rw [if_neg hviol]; exact hmoved

/-- Step 4 before a transmitter that is served in step 5 (R200, R207). -/
theorem framerStep_samePps (lvl drv : Bool) (hserv : txServable (framerStep lvl drv s) = true) :
    SamePps s (framerStep lvl drv s) := by
  revert hserv
  unfold framerStep
  cases hm : s.fr.mode with
  | tx => exact fun _ => ⟨rfl, rfl, rfl⟩
  | idle =>
    dsimp only
    unfold framerIdle
    split <;> exact fun _ => ⟨rfl, rfl, rfl⟩
  | rx =>
    dsimp only
    unfold framerRx
    split
    · intro hserv
      rw [framerRxBit_busy (by simp [hm])] at hserv
      cases hserv
    · exact framerRxGuard_samePps lvl drv

/-- Step 5, notification: `TXRDY` with the error flag cleared. -/
theorem txNotify_fd (s : State) :
    fdInForce (txNotify s) = fdInForce s ∨
      (txServable s = true ∧ PpsFinished s (txNotify s) ∧ FreshWait (txNotify s)) := by
  unfold txNotify
  split
  · next hc =>
    rw [Bool.and_eq_true] at hc
    rcases txrdy_fd s.fr.nackSeen (s.withFr { s.fr with txrdyPend := false, nackSeen := false })
      with hkept | ⟨hdone, hfresh⟩
    · exact Or.inl hkept
    · exact Or.inr ⟨hc.2, ⟨hdone.phase, hdone.owed, hdone.sent, hdone.entered, hdone.inForce⟩, hfresh⟩
  · exact Or.inl rfl

theorem txLoad_frame (s : State) : (txLoad s).phase = s.phase ∧ (txLoad s).wt = s.wt := by
  unfold txLoad
  split <;> exact ⟨rfl, rfl⟩

/-- A freshly armed waiting time does not expire in the tick that arms it (R188, R236). -/
theorem wtStep_phase (hw : FreshWait s) : (wtStep s).phase = s.phase := by
  obtain ⟨hcnt, hmod⟩ := hw
  have hno : noExpiry 1 s := by
    by_cases h0 : s.wt.ticks = 0
    · exact Or.inl h0
    · have hpos := (counter_pos s.wt.ticks).2 h0
      have hzero : s.wt.cnt.toNat = 0 := by rw [hcnt]; rfl
      exact Or.inr (by omega)
  rw [waitTick_eq]
  obtain ⟨-, hphase, -⟩ := waitTick_frame s hno
  exact hphase

/-- An `ETU` leaves the indices alone, or performs the `TXRDY` that ends a PPS (R213). -/
theorem etu_fd (rdr : Bool) (s : State) :
    fdInForce (etu rdr s) = fdInForce s ∨ PpsFinished s (etu rdr s) := by
  unfold etu
  split
  · unfold etuSteps
    rw [tickStart_eq]
    generalize hg : framerStep (ioIn rdr s) s.line.ioDrv (tickStart s) = g
    have hgfd : fdInForce g = fdInForce s := by
      rw [← hg]
      exact (framerStep_related (fdInForce_parametric _) (keeping_self _ (tickStart s)) _ _).2
    have hrest : fdInForce (wtStep (txLoad (txNotify g))) = fdInForce (txNotify g) :=
      have P := fdInForce_parametric (fdInForce (txNotify g))
      (wtStep_related P (txLoad_related P (keeping_self _ _))).2
    rcases txNotify_fd g with hkept | ⟨hserv, hdone, hfresh⟩
    · exact Or.inl (hrest.trans (hkept.trans hgfd))
    · obtain ⟨hphase, hpps, hfd⟩ : SamePps (tickStart s) g := by
        rw [← hg] at hserv ⊢
        exact framerStep_samePps _ _ hserv
      obtain ⟨hlphase, hlwt⟩ := txLoad_frame (txNotify g)
      have hlfresh : FreshWait (txLoad (txNotify g)) := by
        unfold FreshWait; rw [hlwt]; exact hfresh
      refine Or.inr ⟨hphase ▸ hdone.phase, ?_, ?_, ?_, ?_⟩
      · have := hdone.owed; rw [hpps] at this; exact this
      · have := hdone.sent; rw [hpps] at this; exact this
      · rw [wtStep_phase hlfresh, hlphase]; exact hdone.entered
      · rw [hrest, hdone.inForce, hfd]; rfl
  · exact Or.inl rfl

/-! ### The reset event (R140), and every event -/

/-- The defaults in `RESET_ASSERTED`. -/
def FdReset (s t : State) : Prop :=
  fdInForce t = (s.config.fiDefault, s.config.diDefault) ∧ t.phase = .resetAsserted

theorem resetEvent_fd (s : State) : FdReset s (resetEvent s) := by
  rw [resetEvent_eq]
  exact ⟨rfl, rfl⟩

theorem afterVcc_fd (old a : Bool) (s : State) :
    fdInForce (afterVcc old a s) = fdInForce s ∨ FdReset s (afterVcc old a s) := by
  unfold afterVcc
  split
  · split
    · exact Or.inr (resetEvent_fd s)
    · exact Or.inl rfl
  · split
    · exact Or.inl (powerOff_related (fdInForce_parametric _) (keeping_self _ s)).2
    · exact Or.inl rfl

theorem afterRst_fd (old a : Bool) (s : State) :
    fdInForce (afterRst old a s) = fdInForce s ∨ FdReset s (afterRst old a s) := by
  have P := fdInForce_parametric (fdInForce s)
  have hs := keeping_self fdInForce s
  unfold afterRst
  split
  · split
    · exact Or.inr (resetEvent_fd s)
    · exact Or.inl rfl
  · exact Or.inl (ite_related
      (ite_related (ite_related (startDelivery_related P hs) (halt_related P hs _)) hs) hs).2

/-- The indices in force after an event on a created handle. -/
theorem eventResult_fd (i : Instr) (s : State) :
    fdInForce (eventResult i s) = fdInForce s ∨ FdReset s (eventResult i s) ∨
      PpsFinished s (eventResult i s) := by
  have P := fdInForce_parametric (fdInForce s)
  have hs := keeping_self fdInForce s
  cases i with
  | init slot tc uart inep irqep => exact Or.inl rfl
  | iochgVcc a => exact (afterVcc_fd s.lines.vcc a (latched (.iochgVcc a) s)).imp id Or.inl
  | iochgRst a => exact (afterRst_fd s.lines.rst a (latched (.iochgRst a) s)).imp id Or.inl
  | iochgClk a => exact Or.inl rfl
  | rxb perr b => exact Or.inl (rxb_related P hs perr b).2
  | txrdy n => exact (txrdy_fd n s).imp id fun h => Or.inr h.1
  | wthalf => exact Or.inl (wthalf_related P hs).2
  | wtexp => exact Or.inl (wtexp_related P hs).2
  | setatr bytes => exact Or.inl (setAtr_related P hs bytes).2
  | txqapp bytes => exact Or.inl (txqApp_related P hs bytes).2
  | gettxq => exact Or.inl rfl
  | newtx => exact Or.inl (kick_related P hs).2
  | repstat => exact Or.inl (emitStatus_related P hs).2
  | etu rdr => exact (etu_fd rdr s).imp id Or.inr
  | gviol => exact Or.inl (gviol_related P hs).2

/-- Settles O57: the three cases of the indices in force; under the invariant a response index that is not below
the length equals it. -/
theorem fdChangesOnlyAtResetOrPps : Obligations.FdChangesOnlyAtResetOrPps := by
  unfold Obligations.FdChangesOnlyAtResetOrPps
  intro i s t hi ht
  rw [eq_eventResult hi ht]
  rcases eventResult_fd i s with hkept | ⟨hdef, hphase⟩ | hdone
  · exact Or.inl (Prod.mk.inj hkept)
  · obtain ⟨hfi, hdi⟩ := Prod.mk.inj hdef
    exact Or.inr (Or.inl ⟨hfi, hdi, hphase⟩)
  · obtain ⟨hfi, hdi⟩ := Prod.mk.inj hdone.inForce
    have hall : Inv s → s.pps.respIdx = s.pps.respLen := fun h =>
      BitVec.eq_of_toNat_eq (Nat.le_antisymm h.bounded.ppsLens.2.2 hdone.sent)
    exact Or.inr (Or.inr ⟨hdone.phase, hdone.owed, hdone.sent, hall, hdone.entered, hfi, hdi⟩)

end Sys2Proof.Proofs
end

section
/-! PROOFS. The TX queue manager and the queue as a source of `TXRDY` (20_memory.md R62, R63, R72,
41_protocol_fsm.md R133, R137, 46_txqueue_and_status.md R250). -/

namespace Sys2Proof.Proofs

open Sys2Proof Sys2Proof.Machine

variable {s t : State}

/-! ### TXQAPP -/

/-- Settles O34, by the two rejections in R250's order. -/
theorem txqappAppendsOrRejects : Obligations.TxqappAppendsOrRejects := by
  unfold Obligations.TxqappAppendsOrRejects
  intro bytes s hi
  rw [exec_of_inited _ hi]
  congr 1
  show txqApp bytes s = _
  unfold txqApp
  simp only [List.length_eq_zero_iff]
  rfl

/-! ### TXRDY in `TPDU_EXCHANGE` -/

/-- In the exchange the first two sources of `TXRDY` have nothing (R137). -/
theorem txFromAtr_of_exchange (hp : s.phase = .tpduExchange) : txFromAtr s = txFromQueue s := by
  have hmid : ¬ midDelivery s = true := by simp [midDelivery, hp]
  have hpps : ¬ s.phase = .ppsNegotiation := by simp [hp]
  unfold txFromAtr txFromPps
  rw [if_neg hmid, if_neg hpps]

/-- A `TXRDY` of the exchange that is no rejection looks at the queue. -/
theorem txrdy_of_exchange {n : Bool} (hn : (s.seq.txLastValid && n) = false)
    (ha : s.seq.txActive = true) (hp : s.phase = .tpduExchange) :
    txrdy n s = txFromQueue (acknowledged s) := by
  rw [txrdy_search n s (by rw [hp]; rfl) ha hn, txAck_eq, txFromAtr_of_exchange (s := acknowledged s) hp]

/-- Settles O29: the acknowledgement, then the look at the queue. -/
theorem txrdyDrainsTheQueue : Obligations.TxrdyDrainsTheQueue := by
  unfold Obligations.TxrdyDrainsTheQueue
  intro nack s hi hn ha hp
  rw [exec_of_inited _ hi, ← txFromQueue_eq (acknowledged s) hp]
  exact congrArg Host.Outcome.next (txrdy_of_exchange hn ha hp)

/-- With a frame in the queue the byte at the head offset is sent (R63, R138). -/
theorem txFromQueue_send (hp : s.phase = .tpduExchange) (hq : s.txq.frames ≠ []) :
    txFromQueue s = (afterSend (txqHeadByte s.txq) (s.withTxq (txqPop s.txq))).returns 0 := by
  unfold txFromQueue
  rw [if_pos ⟨hp, hq⟩, send_eq]
  rfl

/-- With no frame in it the line is turned to receive (R133 step 5). -/
theorem txFromQueue_empty (hq : s.txq.frames = []) : txFromQueue s = afterTxIdle s := by
  unfold txFromQueue
  rw [if_neg (fun h => h.2 hq), txIdle_eq]

/-! ### The waiting bytes under the invariant -/

/-- The next byte is the one at the head offset, and the pop leaves the others (R63). -/
theorem waitingBytes_of_frames (h : Inv s) (hq : s.txq.frames ≠ []) :
    waitingBytes s.txq = txqHeadByte s.txq :: waitingBytes (txqPop s.txq) := by
  have hoff := h.documented.headOff
  rw [if_neg hq] at hoff
  have hhead : s.txq.frames.headD [] ∈ s.txq.frames := by
    cases hf : s.txq.frames with
    | nil => exact absurd hf hq
    | cons f fs => simp
  have hmax := (h.bounded.capacity.2 _ hhead).2
  have hmost := (inRange_of_legal h.bounded.config).frame_most
  exact waitingBytes_pop s.txq hoff (by omega)

/-- No byte waits exactly when no frame does (R40 i). -/
theorem waitingBytes_eq_nil (h : Inv s) : waitingBytes s.txq = [] ↔ s.txq.frames = [] := by
  constructor
  · intro hw
    by_contra hq
    rw [waitingBytes_of_frames h hq] at hw
    cases hw
  · intro hq
    simp [waitingBytes, hq]

/-- The head offset lies within the queue's bytes, so an append goes behind all of them. -/
theorem headOff_le_flatten (h : Inv s) : s.txq.headOff.toNat ≤ s.txq.frames.flatten.length := by
  have hoff := h.documented.headOff
  cases hf : s.txq.frames with
  | nil => rw [if_pos hf] at hoff; simp [hoff]
  | cons f fs =>
    rw [if_neg (by simp [hf]), hf] at hoff
    simp only [List.headD_cons] at hoff
    simp only [List.flatten_cons, List.length_append]
    omega

/-! ### A run of TXRDY -/

/-- The first event of a run. -/
theorem runEvents_cons {i : Instr} {is : List Instr} (h : exec i s = .next t) :
    runEvents (i :: is) s = runEvents is t := by
  simp only [runEvents, h]

/-- A created exchange with the transmitter running: where the queue is drained from. -/
structure Draining (s : State) : Prop where
  inv : Inv s
  inited : s.ident.inited = true
  phase : s.phase = .tpduExchange
  active : s.seq.txActive = true

/-- What draining the waiting bytes `bs` has put out, and where it leaves the engine. -/
structure Drained (bs : List Byte) (s t : State) : Prop where
  cmds : t.ports.cmds = s.ports.cmds ++
    bs.flatMap (fun b => [txByteWord s.ident b, resetWtWord s.ident]) ++ [enableWord s.ident 1]
  rets : t.ports.rets = s.ports.rets ++ List.replicate bs.length 0 ++ [1]
  phase : t.phase = .tpduExchange
  empty : t.txq = { frames := [], headOff := 0 }
  idle : t.seq.txActive = false
  receiving : t.line.dir = 1

/-- One byte handed over, from a state that goes on draining. -/
structure ByteLeft (b : Byte) (s t : State) : Prop where
  draining : Draining t
  ident : t.ident = s.ident
  cmds : t.ports.cmds = s.ports.cmds ++ [txByteWord s.ident b, resetWtWord s.ident]
  rets : t.ports.rets = s.ports.rets ++ [0]

theorem Draining.exec_txrdy (h : Draining s) :
    exec (.txrdy false) s = .next (txFromQueue (acknowledged s)) := by
  rw [exec_of_inited _ h.inited]
  exact congrArg Host.Outcome.next (txrdy_of_exchange (Bool.and_false _) h.active h.phase)

/-- With nothing in the queue one `TXRDY` turns the line. -/
theorem Draining.last (h : Draining s) (hq : s.txq.frames = []) :
    Drained [] s (txFromQueue (acknowledged s)) := by
  have hoff := h.inv.documented.headOff
  rw [if_pos hq] at hoff
  have hempty : s.txq = { frames := [], headOff := 0 } := by rw [← hq, ← hoff]
  rw [txFromQueue_empty (s := acknowledged s) hq]
  exact ⟨by simp [afterTxIdle, acknowledged], by simp [afterTxIdle, acknowledged], h.phase, hempty,
    rfl, rfl⟩

/-- With a frame in it one `TXRDY` hands over the next byte; in the exchange the waiting time is armed, so the
count is restarted too (R40 d, R138). -/
theorem Draining.next (h : Draining s) (hq : s.txq.frames ≠ []) :
    ByteLeft (txqHeadByte s.txq) s (txFromQueue (acknowledged s)) := by
  have harmed : s.wt.ticks ≠ 0 := h.inv.documented.armed.2 (Or.inr (Or.inr h.phase))
  have hinv := exec_inv h.inv h.exec_txrdy
  have hstate := txFromQueue_send (s := acknowledged s) h.phase hq
  rw [hstate] at hinv ⊢
  refine ⟨⟨hinv, h.inited, h.phase, rfl⟩, rfl, ?_, rfl⟩
  have hwords : (if (acknowledged s).wt.ticks = 0 then [] else [resetWtWord s.ident]) =
      [resetWtWord s.ident] := if_neg harmed
  exact congrArg (fun ws => s.ports.cmds ++ txByteWord s.ident _ :: ws) hwords

/-- A byte handed over, and then the others. -/
theorem Drained.cons {b : Byte} {bs : List Byte} {u : State} (hb : ByteLeft b s u)
    (hd : Drained bs u t) : Drained (b :: bs) s t where
  cmds := by rw [hd.cmds, hb.cmds, hb.ident]; simp
  rets := by rw [hd.rets, hb.rets]; simp [List.replicate_succ]
  phase := hd.phase
  empty := hd.empty
  idle := hd.idle
  receiving := hd.receiving

/-- As many `TXRDY` as bytes wait, and one more, drain the queue. -/
theorem runEvents_drains (bs : List Byte) : ∀ s : State, Draining s → waitingBytes s.txq = bs →
    ∃ t, runEvents (List.replicate (bs.length + 1) (.txrdy false)) s = .next t ∧ Drained bs s t := by
  induction bs with
  | nil =>
    intro s h hw
    refine ⟨_, ?_, h.last ((waitingBytes_eq_nil h.inv).1 hw)⟩
    exact runEvents_cons h.exec_txrdy
  | cons b bs ih =>
    intro s h hw
    have hq : s.txq.frames ≠ [] := fun hq => by
      rw [(waitingBytes_eq_nil h.inv).2 hq] at hw; cases hw
    rw [waitingBytes_of_frames h.inv hq] at hw
    obtain ⟨rfl, hrest⟩ := List.cons.inj hw
    have hnext := h.next hq
    have hpopped : waitingBytes (txFromQueue (acknowledged s)).txq = bs := by
      rw [txFromQueue_send (s := acknowledged s) h.phase hq]; exact hrest
    obtain ⟨t, hrun, hdrained⟩ := ih _ hnext.draining hpopped
    refine ⟨t, ?_, hdrained.cons hnext⟩
    rw [List.length_cons, List.replicate_succ, runEvents_cons h.exec_txrdy]
    exact hrun

/-- Settles O30, by induction on the waiting bytes. -/
theorem queuedBytesLeaveInOrder : Obligations.QueuedBytesLeaveInOrder := by
  unfold Obligations.QueuedBytesLeaveInOrder
  intro s h hi hp ha
  obtain ⟨t, hrun, hd⟩ := runEvents_drains _ s ⟨h, hi, hp, ha⟩ rfl
  exact ⟨t, hrun, hd.cmds, hd.rets, hd.phase, hd.empty, hd.idle, hd.receiving⟩

end Sys2Proof.Proofs
end

section
/-! PROOFS. What an event does to the bytes the engine holds for the reader: the ATR and the TX queue
(20_memory.md R62 to R64, R72, R73). Most operations leave both alone; the sources of `TXRDY` take a byte of the
queue at most; each of the other writers has one case of `HeldEffect`. -/

namespace Sys2Proof.Proofs

open Sys2Proof Sys2Proof.Machine

variable {s t : State}

/-- The held ATR: its bytes and their number. -/
def heldAtr (s : State) : List Byte × BitVec 6 := (s.atr.buf, s.atr.len)

/-- The held ATR and the TX queue. -/
def heldBytes (s : State) : (List Byte × BitVec 6) × TxQueue := (heldAtr s, s.txq)

theorem heldAtr_of_heldBytes (h : heldBytes t = heldBytes s) : heldAtr t = heldAtr s :=
  congrArg Prod.fst h

theorem txq_of_heldBytes (h : heldBytes t = heldBytes s) : t.txq = s.txq :=
  congrArg Prod.snd h

/-! ### Operations that leave the held bytes alone -/

section

variable (s)

theorem emit_held (c : Command) : heldBytes (emit c s) = heldBytes s := by
  simp [heldBytes, heldAtr]

theorem retStatus_held (c : Status) : heldBytes (retStatus c s) = heldBytes s := rfl

theorem halt_held (c : ErrCause) : heldBytes (halt c s) = heldBytes s := by rw [halt_eq]; rfl

theorem restartIfArmed_held : heldBytes (restartIfArmed s) = heldBytes s := by
  unfold restartIfArmed
  split
  · exact emit_held s _
  · rfl

theorem startTransmit_held : heldBytes (startTransmit s) = heldBytes s := by
  rw [startTransmit_eq]; rfl

theorem kick_held : heldBytes (kick s) = heldBytes s := by
  unfold kick
  split
  · exact startTransmit_held s
  · rfl

theorem ppsEval_held : heldBytes (ppsEval s) = heldBytes s := by
  unfold ppsEval
  dsimp only
  split
  · exact halt_held s _
  · split
    · exact startTransmit_held _
    · exact halt_held s _

theorem ppsCollect_held (b : Byte) : heldBytes (ppsCollect b s) = heldBytes s := by
  unfold ppsCollect
  dsimp only
  split
  · exact ppsEval_held _
  · rfl

theorem firstByte_held (b : Byte) : heldBytes (firstByte b s) = heldBytes s := by
  unfold firstByte
  split
  · exact emit_held _ _
  · rw [kick_held, emit_held]; exact emit_held _ _

theorem rxParityError_held : heldBytes (rxParityError s) = heldBytes s := by
  unfold rxParityError
  dsimp only
  split
  · exact halt_held _ _
  · exact emit_held _ _

theorem rxGoodByte_held (b : Byte) : heldBytes (rxGoodByte b s) = heldBytes s := by
  unfold rxGoodByte
  dsimp only
  split
  · exact firstByte_held _ b
  · split
    · exact ppsCollect_held _ b
    · exact emit_held _ _

theorem rxb_held (perr : Bool) (b : Byte) : heldBytes (rxb perr b s) = heldBytes s := by
  unfold rxb
  dsimp only
  split
  · split
    · rw [rxParityError_held, emit_held]
    · rw [rxGoodByte_held, emit_held]
  · rfl

theorem atrComplete_held : heldBytes (atrComplete s) = heldBytes s := by
  rw [atrComplete_eq]
  unfold atrEnded
  dsimp only
  split <;> rfl

theorem ppsComplete_held : heldBytes (ppsComplete s) = heldBytes s := by rw [ppsComplete_eq]; rfl

theorem txNack_held : heldBytes (txNack s) = heldBytes s := by
  unfold txNack
  dsimp only
  split
  · rw [retStatus_held, halt_held]; rfl
  · rw [retStatus_held, restartIfArmed_held, emit_held]; rfl

theorem wthalf_held : heldBytes (wthalf s) = heldBytes s := by
  unfold wthalf
  split
  · exact emit_held _ _
  · rfl

theorem wtexp_held : heldBytes (wtexp s) = heldBytes s := by
  unfold wtexp
  split
  · exact halt_held _ _
  · split <;> rfl

theorem gviol_held : heldBytes (gviol s) = heldBytes s := by
  unfold gviol
  split
  · exact halt_held s _
  · rfl

theorem startDelivery_held : heldBytes (startDelivery s) = heldBytes s := by
  rw [startDelivery_eq]; rfl

/-! The parts of a tick (R200). -/

theorem framerRxBit_held (lvl : Bool) : heldBytes (framerRxBit lvl s) = heldBytes s := by
  unfold framerRxBit
  dsimp only
  split
  · exact rxb_held _ _ _
  · rfl

theorem framerRxGuard_held (lvl drv : Bool) : heldBytes (framerRxGuard lvl drv s) = heldBytes s := by
  have hmoved : heldBytes (if s.fr.slot = 11 then s.withFr { s.fr with mode := .idle, slot := 0 }
      else s.withFr { s.fr with slot := 11 }) = heldBytes s := by
    split <;> rfl
  unfold framerRxGuard
  dsimp only
  split
  · exact (gviol_held _).trans hmoved
  · exact hmoved

theorem framerStep_held (lvl drv : Bool) : heldBytes (framerStep lvl drv s) = heldBytes s := by
  unfold framerStep
  cases s.fr.mode with
  | tx => rfl
  | idle =>
    dsimp only
    unfold framerIdle
    split <;> rfl
  | rx =>
    dsimp only
    unfold framerRx
    split
    · exact framerRxBit_held s lvl
    · exact framerRxGuard_held s lvl drv

theorem txLoad_held : heldBytes (txLoad s) = heldBytes s := by
  unfold txLoad
  split <;> rfl

theorem wtHalfStep_held : heldBytes (wtHalfStep s) = heldBytes s := by
  unfold wtHalfStep
  split
  · exact wthalf_held s
  · rfl

theorem wtFullStep_held : heldBytes (wtFullStep s) = heldBytes s := by
  unfold wtFullStep
  split
  · exact wtexp_held s
  · rfl

theorem wtStep_held : heldBytes (wtStep s) = heldBytes s := by
  unfold wtStep
  split
  · rw [wtFullStep_held, wtHalfStep_held]; rfl
  · rfl

end

/-! ### The sources of TXRDY (R133, R137) -/

/-- The first waiting byte of the held bytes `x` has left the queue and been handed to the framer, in the
exchange (R63, R138). -/
structure ByteTaken (x : (List Byte × BitVec 6) × TxQueue) (t : State) : Prop where
  held : heldBytes t = (x.1, txqPop x.2)
  waited : x.2.frames ≠ []
  last : t.seq.txLast = txqHeadByte x.2
  awaited : t.seq.txLastValid = true
  phase : t.phase = .tpduExchange

/-- A waiting time that runs has just been restarted (R138). -/
def Restarted (s : State) : Prop := s.wt.ticks ≠ 0 → s.wt.cnt = 0

/-- What the sources of `TXRDY` do to the held bytes `x`: nothing, or a byte is taken. -/
def Served (x : (List Byte × BitVec 6) × TxQueue) (t : State) : Prop :=
  heldBytes t = x ∨ (ByteTaken x t ∧ Restarted t)

theorem afterSend_restarted (b : Byte) (s : State) : Restarted (afterSend b s) := by
  unfold Restarted afterSend
  dsimp only [emits_wt]
  split
  · next h0 => exact fun h => absurd h0 h
  · exact fun _ => rfl

theorem txFromQueue_served (s : State) : Served (heldBytes s) (txFromQueue s) := by
  by_cases hc : s.phase = .tpduExchange ∧ s.txq.frames ≠ []
  · obtain ⟨hp, hq⟩ := hc
    have hr := afterSend_restarted (txqHeadByte s.txq) (s.withTxq (txqPop s.txq))
    rw [txFromQueue_send hp hq]
    exact Or.inr ⟨⟨rfl, hq, rfl, rfl, hp⟩, hr⟩
  · unfold txFromQueue
    rw [if_neg hc, txIdle_eq]
    exact Or.inl rfl

theorem txFromPps_served (s : State) : Served (heldBytes s) (txFromPps s) := by
  have hqueue := txFromQueue_served s
  unfold txFromPps
  split
  · split
    · rw [send_eq]; exact Or.inl rfl
    · split
      · rw [← ppsComplete_held s]; exact txFromQueue_served _
      · exact hqueue
  · exact hqueue

theorem txFromAtr_served (s : State) : Served (heldBytes s) (txFromAtr s) := by
  unfold txFromAtr
  split
  · split
    · rw [send_eq]; exact Or.inl rfl
    · rw [← atrComplete_held s]; exact txFromPps_served _
  · exact txFromPps_served s

theorem txrdy_served (n : Bool) (s : State) : Served (heldBytes s) (txrdy n s) := by
  unfold txrdy
  split
  · exact Or.inl rfl
  · split
    · exact Or.inl rfl
    · split
      · exact Or.inl (txNack_held s)
      · rw [txAck_eq]; exact txFromAtr_served (acknowledged s)

theorem txNotify_served (s : State) : Served (heldBytes s) (txNotify s) := by
  unfold txNotify
  split
  · exact txrdy_served _ (s.withFr { s.fr with txrdyPend := false, nackSeen := false })
  · exact Or.inl rfl

/-! ### The tick that performs a TXRDY (R207, R236) -/

/-- Short of expiry the sixth step touches the waiting time, and may report. -/
theorem waitTick_of_noExpiry (h : noExpiry 1 s) :
    ∃ w ws, waitTick s = ({ s with wt := w } : State).emits ws := by
  by_cases h0 : s.wt.ticks = 0
  · refine ⟨s.wt, [], ?_⟩
    unfold waitTick
    rw [if_pos h0]
    simp [State.emits]
  · obtain ⟨-, he⟩ := waitTick_below s h0 (h.resolve_left h0)
    rw [he]
    split
    · exact ⟨_, _, rfl⟩
    · exact ⟨{ s.wt with cnt := s.wt.cnt + 1 }, [], by simp [State.emits]⟩

/-- A waiting time just restarted does not expire in the same tick: its value is at least 64 (R188). -/
theorem noExpiry_of_restarted (h : Inv s) (hr : Restarted s) : noExpiry 1 s := by
  by_cases h0 : s.wt.ticks = 0
  · exact Or.inl h0
  · have hpos := (counter_pos s.wt.ticks).2 h0
    have hmod := wtValue_mod s.config s.fd.di
    rw [← h.bounded.waitValue h0] at hmod
    have hzero : s.wt.cnt.toNat = 0 := by rw [hr h0]; rfl
    exact Or.inr (by omega)

/-- A byte taken stays taken through the rest of its tick. -/
theorem ByteTaken.rest_of_tick {x : (List Byte × BitVec 6) × TxQueue} (hb : ByteTaken x s)
    (h : Inv s) (hr : Restarted s) : ByteTaken x (wtStep (txLoad s)) := by
  have hload : ∃ f, txLoad s = { s with fr := f } := by
    unfold txLoad
    split
    · exact ⟨_, rfl⟩
    · exact ⟨s.fr, rfl⟩
  have hinv := txLoad_inv h
  obtain ⟨f, hf⟩ := hload
  rw [hf] at hinv ⊢
  obtain ⟨w, ws, hw⟩ := waitTick_of_noExpiry (noExpiry_of_restarted hinv hr)
  rw [waitTick_eq, hw]
  exact ⟨hb.held, hb.waited, hb.last, hb.awaited, hb.phase⟩

/-- An `ETU` leaves the held bytes alone, or performs the `TXRDY` that takes one from the queue. Under the
invariant the waiting time does not expire in that tick. -/
theorem etu_served (rdr : Bool) (s : State) :
    heldBytes (etu rdr s) = heldBytes s ∨
      (heldAtr (etu rdr s) = heldAtr s ∧ (Inv s → ByteTaken (heldBytes s) (etu rdr s))) := by
  unfold etu
  split
  · unfold etuSteps
    rw [tickStart_eq]
    generalize hg : framerStep (ioIn rdr s) s.line.ioDrv (tickStart s) = g
    have hgheld : heldBytes g = heldBytes s := by
      rw [← hg]; exact framerStep_held (tickStart s) _ _
    have hginv : Inv s → Inv g := fun h => by
      rw [← hg]; exact framerStep_inv (tickStart_inv h) _ _
    have hrest : heldBytes (wtStep (txLoad (txNotify g))) = heldBytes (txNotify g) :=
      (wtStep_held _).trans (txLoad_held _)
    have hserved := txNotify_served g
    rw [hgheld] at hserved
    rcases hserved with hkept | ⟨htaken, hr⟩
    · exact Or.inl (hrest.trans hkept)
    · refine Or.inr ⟨?_, fun h => htaken.rest_of_tick (txNotify_inv (hginv h)) hr⟩
      rw [heldAtr_of_heldBytes hrest]
      exact congrArg Prod.fst htaken.held
  · exact Or.inl rfl

/-! ### Every event -/

/-- What an event `i` that leads from `s` to `t` does to the held bytes. -/
inductive HeldEffect (i : Instr) (s t : State) : Prop
  /-- nothing -/
  | kept (h : heldBytes t = heldBytes s)
  /-- a byte of the queue goes to the framer (R63) -/
  | taken (hatr : heldAtr t = heldAtr s) (h : Inv s → ByteTaken (heldBytes s) t)
  /-- an accepted frame joins the queue (R62) -/
  | appended (bytes : List Byte) (hi : i = .txqapp bytes) (hatr : heldAtr t = heldAtr s)
    (hq : t.txq = txqAppend bytes s.txq)
  /-- an ATR is written, outside a delivery (R162) -/
  | written (hmid : midDelivery s = false) (hq : t.txq = s.txq)
  /-- a reset event or the loss of VCC discards the queue (R64) -/
  | discarded (hq : t.txq = txqFlush) (hp : t.phase = .resetAsserted ∨ t.phase = .poweredOff)

theorem resetEvent_discards (i : Instr) (s l : State) : HeldEffect i s (resetEvent l) := by
  rw [resetEvent_eq]
  exact .discarded rfl (Or.inl rfl)

theorem powerOff_discards (i : Instr) (s l : State) : HeldEffect i s (powerOff l) := by
  rw [powerOff_eq]
  exact .discarded rfl (Or.inr rfl)

theorem iochgVcc_effect (a : Bool) (s : State) :
    HeldEffect (.iochgVcc a) s (iochgVcc a s) := by
  unfold iochgVcc
  dsimp only
  split
  · split
    · exact resetEvent_discards _ s _
    · exact .kept rfl
  · split
    · exact powerOff_discards _ s _
    · exact .kept rfl

theorem iochgRst_effect (a : Bool) (s : State) :
    HeldEffect (.iochgRst a) s (iochgRst a s) := by
  unfold iochgRst
  dsimp only
  split
  · split
    · exact resetEvent_discards _ s _
    · exact .kept rfl
  · split
    · split
      · split
        · exact .kept (startDelivery_held _)
        · exact .kept (halt_held _ _)
      · exact .kept rfl
    · exact .kept rfl

theorem setAtr_effect (bytes : List Byte) (s : State) :
    HeldEffect (.setatr bytes) s (setAtr bytes s) := by
  unfold setAtr
  split
  · exact .kept rfl
  · split
    · exact .kept rfl
    · split
      · exact .kept rfl
      · next hmid => exact .written (by simpa using hmid) rfl

theorem txqApp_effect (bytes : List Byte) (s : State) :
    HeldEffect (.txqapp bytes) s (txqApp bytes s) := by
  unfold txqApp
  split
  · exact .kept rfl
  · split
    · exact .kept rfl
    · exact .appended bytes rfl rfl rfl

/-- The effect of every event on a created handle. -/
theorem eventResult_effect (i : Instr) (s : State) : HeldEffect i s (eventResult i s) := by
  cases i with
  | init slot tc uart inep irqep => exact .kept rfl
  | iochgVcc a => exact iochgVcc_effect a s
  | iochgRst a => exact iochgRst_effect a s
  | iochgClk a => exact .kept rfl
  | rxb perr b => exact .kept (rxb_held s perr b)
  | txrdy n =>
    rcases txrdy_served n s with hkept | ⟨htaken, -⟩
    · exact .kept hkept
    · exact .taken (congrArg Prod.fst htaken.held) (fun _ => htaken)
  | wthalf => exact .kept (wthalf_held s)
  | wtexp => exact .kept (wtexp_held s)
  | setatr bytes => exact setAtr_effect bytes s
  | txqapp bytes => exact txqApp_effect bytes s
  | gettxq => exact .kept rfl
  | newtx => exact .kept (kick_held s)
  | repstat => exact .kept (emit_held s _)
  | etu rdr =>
    rcases etu_served rdr s with hkept | ⟨hatr, htaken⟩
    · exact .kept hkept
    · exact .taken hatr htaken
  | gviol => exact .kept (gviol_held s)

/-- Settles O17: the ATR is written outside a delivery only, or replaced in a reset event, which ends the
delivery. -/
theorem atrStandsStillDuringItsDelivery : Obligations.AtrStandsStillDuringItsDelivery := by
  unfold Obligations.AtrStandsStillDuringItsDelivery
  intro i s t ht hp hd htp _ hi
  rw [eq_eventResult hi ht] at htp ⊢
  have hsame : heldAtr (eventResult i s) = heldAtr s := by
    cases eventResult_effect i s with
    | kept h => exact heldAtr_of_heldBytes h
    | taken hatr => exact hatr
    | appended bytes hi hatr => exact hatr
    | written hmid => simp [midDelivery, hp, hd] at hmid
    | discarded hq hphase => simp [htp] at hphase
  exact Prod.mk.inj hsame

/-- Settles O60, by the effect on the held bytes, read off the waiting bytes. -/
theorem waitingBytesKeepTheirOrder : Obligations.WaitingBytesKeepTheirOrder := by
  unfold Obligations.WaitingBytesKeepTheirOrder
  intro i s t h hi ht
  rw [eq_eventResult hi ht]
  cases eventResult_effect i s with
  | kept hkept => exact Or.inl (congrArg waitingBytes (txq_of_heldBytes hkept))
  | taken _ htaken =>
    have hb := htaken h
    have hpop : (eventResult i s).txq = txqPop s.txq := congrArg Prod.snd hb.held
    refine Or.inr (Or.inr (Or.inl ⟨txqHeadByte s.txq, ?_, hb.last, hb.awaited, hb.phase⟩))
    rw [hpop]
    exact waitingBytes_of_frames h hb.waited
  | appended bytes hbytes _ hq =>
    refine Or.inr (Or.inl ⟨bytes, hbytes, ?_⟩)
    rw [hq]
    exact waitingBytes_append _ _ (headOff_le_flatten h)
  | written _ hq => exact Or.inl (congrArg waitingBytes hq)
  | discarded hq hp => exact Or.inr (Or.inr (Or.inr ⟨by rw [hq]; exact waitingBytes_flush, hp⟩))

end Sys2Proof.Proofs
end

section
/-! PROOFS. The layouts of the event words (30_encoding.md R81): a word is put together from the fields of a layout
exactly when those are its fields, which serves the decoder (fields read off a word), the encoder (a word made of
fields) and the rows of the table (fields that are fixed). -/

namespace Sys2Proof.Proofs

open Sys2Proof Sys2Proof.Machine

/-- A field put together from two is the two fields beside each other. -/
theorem extractLsb_eq_append_iff {N s n k : Nat} {w : BitVec N} {x : BitVec n} {y : BitVec k} :
    w.extractLsb' s (n + k) = x ++ y ↔ w.extractLsb' (s + k) n = x ∧ w.extractLsb' s k = y := by
  rw [← BitVec.extractLsb'_append_extractLsb'_eq_extractLsb' (rfl : s + k = s + k)]
  constructor
  · intro h
    exact ⟨by rw [← extractLsb_append_high x y, ← h, extractLsb_append_high],
      by rw [← extractLsb_append_low x y, ← h, extractLsb_append_low]⟩
  · rintro ⟨rfl, rfl⟩; rfl

/-- A field of one bit, as a flag. -/
theorem extractLsb_eq_ofBool_iff {N s : Nat} {w : BitVec N} {b : Bool} :
    w.extractLsb' s 1 = BitVec.ofBool b ↔ w.getLsbD s = b := by
  constructor
  · intro h
    simpa using congrArg (fun v => v.getLsbD 0) h
  · rintro rfl
    apply BitVec.eq_of_getLsbD_eq
    intro i hi
    obtain rfl : i = 0 := by omega
    simp

section

variable {w : EventWord} (op : BitVec 4)

/-- Format I. -/
theorem eq_formatI_iff (slot tc uart : BitVec 2) (inep irqep : BitVec 3) :
    w = op ++ slot ++ tc ++ uart ++ inep ++ irqep ↔
      w.op = op ∧ w.slot = slot ∧ w.tc = tc ∧ w.uart = uart ∧ w.inep = inep ∧ w.irqep = irqep := by
  calc w = op ++ slot ++ tc ++ uart ++ inep ++ irqep
    _ ↔ w.extractLsb' 0 (4 + 2 + 2 + 2 + 3 + 3) = op ++ slot ++ tc ++ uart ++ inep ++ irqep := by
      rw [BitVec.extractLsb'_eq_self]
    _ ↔ _ := by
      simp only [extractLsb_eq_append_iff, and_assoc]
      rfl

/-- Format S. -/
theorem eq_formatS_iff (zeros : BitVec 9) (sig : BitVec 2) (active : Bool) :
    w = op ++ zeros ++ sig ++ BitVec.ofBool active ↔
      w.op = op ∧ w.extractLsb' 3 9 = zeros ∧ w.sig = sig ∧ w.bit0 = active := by
  calc w = op ++ zeros ++ sig ++ BitVec.ofBool active
    _ ↔ w.extractLsb' 0 (4 + 9 + 2 + 1) = op ++ zeros ++ sig ++ BitVec.ofBool active := by
      rw [BitVec.extractLsb'_eq_self]
    _ ↔ _ := by
      simp only [extractLsb_eq_append_iff, extractLsb_eq_ofBool_iff, and_assoc]
      rfl

/-- Format B. -/
theorem eq_formatB_iff (zeros : BitVec 3) (perr : Bool) (byte : Byte) :
    w = op ++ zeros ++ BitVec.ofBool perr ++ byte ↔
      w.op = op ∧ w.extractLsb' 9 3 = zeros ∧ w.perr = perr ∧ w.byte = byte := by
  calc w = op ++ zeros ++ BitVec.ofBool perr ++ byte
    _ ↔ w.extractLsb' 0 (4 + 3 + 1 + 8) = op ++ zeros ++ BitVec.ofBool perr ++ byte := by
      rw [BitVec.extractLsb'_eq_self]
    _ ↔ _ := by
      simp only [extractLsb_eq_append_iff, extractLsb_eq_ofBool_iff, and_assoc]
      rfl

/-- Format F. -/
theorem eq_formatF_iff (zeros : BitVec 11) (flag : Bool) :
    w = op ++ zeros ++ BitVec.ofBool flag ↔
      w.op = op ∧ w.extractLsb' 1 11 = zeros ∧ w.bit0 = flag := by
  calc w = op ++ zeros ++ BitVec.ofBool flag
    _ ↔ w.extractLsb' 0 (4 + 11 + 1) = op ++ zeros ++ BitVec.ofBool flag := by
      rw [BitVec.extractLsb'_eq_self]
    _ ↔ _ := by
      simp only [extractLsb_eq_append_iff, extractLsb_eq_ofBool_iff, and_assoc]
      rfl

/-- Format N, and format L with a length of twelve bits. -/
theorem eq_formatN_iff (low : BitVec 12) : w = op ++ low ↔ w.op = op ∧ w.low12 = low := by
  calc w = op ++ low
    _ ↔ w.extractLsb' 0 (4 + 12) = op ++ low := by rw [BitVec.extractLsb'_eq_self]
    _ ↔ _ := by
      simp only [extractLsb_eq_append_iff]
      rfl

/-- Format L with a length of eight bits (`SETATR`). -/
theorem eq_formatL_iff (zeros : BitVec 4) (len : Byte) :
    w = op ++ zeros ++ len ↔ w.op = op ∧ w.extractLsb' 8 4 = zeros ∧ w.byte = len := by
  calc w = op ++ zeros ++ len
    _ ↔ w.extractLsb' 0 (4 + 4 + 8) = op ++ zeros ++ len := by rw [BitVec.extractLsb'_eq_self]
    _ ↔ _ := by
      simp only [extractLsb_eq_append_iff, and_assoc]
      rfl

/-- A row of R83 that fixes the opcode and the bits 11:k: the words it selects, by these two fields. -/
theorem selects_iff {r : TableRow} {n : Nat} (k : Nat) (mid : BitVec n) (hk : n + k = 12)
    (hp : r.pattern = (op ++ mid).setWidth 16 <<< k) (hm : r.mask = BitVec.allOnes 16 <<< k) :
    r.selects w = true ↔ w.op = op ∧ w.extractLsb' k n = mid := by
  have htop : w.extractLsb' k (4 + n) = op ++ mid ↔ w.op = op ∧ w.extractLsb' k n = mid := by
    rw [extractLsb_eq_append_iff, Nat.add_comm k n, hk, EventWord.op]
  rw [← htop, TableRow.selects, beq_iff_eq, hp, hm]
  constructor
  · intro h
    apply BitVec.eq_of_getLsbD_eq
    intro i hi
    have hbit := congrArg (fun v => v.getLsbD (k + i)) h
    have hki : k + i < 16 := by omega
    have hi16 : i < 16 := by omega
    simpa [hki, hi16, hi, -BitVec.reduceAllOnes] using hbit
  · intro h
    rw [← h]
    apply BitVec.eq_of_getLsbD_eq
    intro i hi
    by_cases hik : i < k
    · simp [hi, hik]
    · have hki : k + (i - k) = i := by omega
      have hlt : i - k < 4 + n := by omega
      simp [hi, hik, hki, hlt, -BitVec.reduceAllOnes]

end

end Sys2Proof.Proofs
end

section
/-! PROOFS. Headers (30_encoding.md R83 to R85): the decoder by opcode, and the words it takes for headers, which are
the first words of well-formed events. -/

namespace Sys2Proof.Proofs

open Sys2Proof Sys2Proof.Machine

/-! ### The decoder, opcode by opcode -/

section

variable {w : EventWord}

theorem decodeHeader_of_op_one (h : w.op = 1) :
    decodeHeader w = some (.single (.init w.slot w.tc w.uart w.inep w.irqep)) := by
  simp [decodeHeader, h]

theorem decodeHeader_of_op_two (h : w.op = 2) : decodeHeader w = decodeIochg w := by
  simp [decodeHeader, h]

theorem decodeHeader_of_op_three (h : w.op = 3) :
    decodeHeader w =
      if w.extractLsb' 9 3 = 0 then some (.single (.rxb w.perr w.byte)) else none := by
  simp [decodeHeader, h]

theorem decodeHeader_of_op_four (h : w.op = 4) :
    decodeHeader w = if w.extractLsb' 1 11 = 0 then some (.single (.txrdy w.bit0)) else none := by
  simp [decodeHeader, h]

theorem decodeHeader_of_op_five (h : w.op = 5) : decodeHeader w = decodeTimer w := by
  simp [decodeHeader, h]

theorem decodeHeader_of_op_six (h : w.op = 6) :
    decodeHeader w = if w.extractLsb' 8 4 = 0 then some (.setatr w.byte.toNat) else none := by
  simp [decodeHeader, h]

theorem decodeHeader_of_op_seven (h : w.op = 7) :
    decodeHeader w = some (.txqapp w.low12.toNat) := by
  simp [decodeHeader, h]

theorem decodeHeader_of_op_eight (h : w.op = 8) : decodeHeader w = decodeTask w := by
  simp [decodeHeader, h]

theorem decodeHeader_of_op_nine (h : w.op = 9) :
    decodeHeader w = if w.extractLsb' 1 11 = 0 then some (.single (.etu w.bit0)) else none := by
  simp [decodeHeader, h]

theorem decodeHeader_of_op_ten (h : w.op = 10) :
    decodeHeader w = if w.low12 = 0 then some (.single .gviol) else none := by
  simp [decodeHeader, h]

theorem decodeHeader_of_op_unused (h : w.op = 0 ∨ 0xB ≤ w.op.toNat) : decodeHeader w = none := by
  have hne : ∀ v : BitVec 4, 0 < v.toNat → v.toNat < 0xB → w.op ≠ v := by
    rintro v h0 hB rfl
    rcases h with h | h
    · simp [h] at h0
    · omega
  simp [decodeHeader, hne]

/-- The opcodes: those of no event, and the ten of the table. -/
theorem op_cases (op : BitVec 4) :
    (op = 0 ∨ 0xB ≤ op.toNat) ∨ op = 1 ∨ op = 2 ∨ op = 3 ∨ op = 4 ∨ op = 5 ∨ op = 6 ∨ op = 7 ∨
      op = 8 ∨ op = 9 ∨ op = 10 := by
  revert op
  decide

/-- The values of `sig`. -/
theorem sig_cases (sig : BitVec 2) : sig = 0 ∨ sig = 1 ∨ sig = 2 ∨ sig = 3 := by
  revert sig
  decide

theorem decodeIochg_eq_none_iff :
    decodeIochg w = none ↔ w.extractLsb' 3 9 ≠ 0 ∨ w.sig = 3 := by
  by_cases hz : w.extractLsb' 3 9 = 0
  · rcases sig_cases w.sig with h | h | h | h <;> simp [decodeIochg, hz, h]
  · exact iff_of_true (if_neg hz) (Or.inl hz)

theorem decodeTimer_eq_none_iff : decodeTimer w = none ↔ 1 < w.low12.toNat := by
  have hsub : 1 < w.low12.toNat ↔ w.low12 ≠ 0 ∧ w.low12 ≠ 1 := by bv_omega
  rw [hsub, decodeTimer]
  split_ifs with h0 h1
  · exact iff_of_false (by simp) fun h => h.1 h0
  · exact iff_of_false (by simp) fun h => h.2 h1
  · exact iff_of_true rfl ⟨h0, h1⟩

theorem decodeTask_eq_none_iff : decodeTask w = none ↔ 2 < w.low12.toNat := by
  have hsub : 2 < w.low12.toNat ↔ w.low12 ≠ 0 ∧ w.low12 ≠ 1 ∧ w.low12 ≠ 2 := by bv_omega
  rw [hsub, decodeTask]
  split_ifs with h0 h1 h2
  · exact iff_of_false (by simp) fun h => h.1 h0
  · exact iff_of_false (by simp) fun h => h.2.1 h1
  · exact iff_of_false (by simp) fun h => h.2.2 h2
  · exact iff_of_true rfl ⟨h0, h1, h2⟩

/-- The illegal words (R85), opcode by opcode. -/
theorem decodeHeader_eq_none_iff (w : EventWord) :
    decodeHeader w = none ↔
      (w.op = 0 ∨ 0xB ≤ w.op.toNat) ∨ (w.op = 2 ∧ (w.extractLsb' 3 9 ≠ 0 ∨ w.sig = 3)) ∨
        (w.op = 3 ∧ w.extractLsb' 9 3 ≠ 0) ∨ (w.op = 4 ∧ w.extractLsb' 1 11 ≠ 0) ∨
        (w.op = 5 ∧ 1 < w.low12.toNat) ∨ (w.op = 6 ∧ w.extractLsb' 8 4 ≠ 0) ∨
        (w.op = 8 ∧ 2 < w.low12.toNat) ∨ (w.op = 9 ∧ w.extractLsb' 1 11 ≠ 0) ∨
        (w.op = 10 ∧ w.low12 ≠ 0) := by
  rcases op_cases w.op with h | h | h | h | h | h | h | h | h | h | h
  · exact iff_of_true (decodeHeader_of_op_unused h) (Or.inl h)
  · simp [decodeHeader_of_op_one h, h]
  · simp [decodeHeader_of_op_two h, decodeIochg_eq_none_iff, h]
  · simp [decodeHeader_of_op_three h, h]
  · simp [decodeHeader_of_op_four h, h]
  · simp [decodeHeader_of_op_five h, decodeTimer_eq_none_iff, h]
  · simp [decodeHeader_of_op_six h, h]
  · simp [decodeHeader_of_op_seven h, h]
  · simp [decodeHeader_of_op_eight h, decodeTask_eq_none_iff, h]
  · simp [decodeHeader_of_op_nine h, h]
  · simp [decodeHeader_of_op_ten h, h]

end

/-! ### An event as its first word and its data words -/

/-- The header that announces an event (R84). -/
def headerOf : Instr → Header
  | .setatr bytes => .setatr bytes.length
  | .txqapp bytes => .txqapp bytes.length
  | i => .single i

/-- The bytes an event takes from data words (R82). -/
def dataBytes : Instr → List Byte
  | .setatr bytes | .txqapp bytes => bytes
  | _ => []

/-- The word of an event in header position. -/
def firstWord (i : Instr) : EventWord := (encode i).headD 0

theorem encode_eq_cons (i : Instr) : encode i = firstWord i :: (dataBytes i).map dataWord := by
  cases i <;> rfl

theorem headerMnemonic_headerOf (i : Instr) : headerMnemonic (headerOf i) = mnemonicOf i := by
  cases i <;> rfl

/-- The first word of every event that has an encoding is decoded to the event's header. -/
theorem decodeHeader_firstWord {i : Instr} (hw : i.wellFormed = true) :
    decodeHeader (firstWord i) = some (headerOf i) := by
  cases i with
  | init slot tc uart inep irqep =>
    obtain ⟨hop, hslot, htc, huart, hinep, hirqep⟩ :=
      (eq_formatI_iff 1 slot tc uart inep irqep).1 (rfl : firstWord (.init slot tc uart inep irqep) = _)
    rw [decodeHeader_of_op_one hop, hslot, htc, huart, hinep, hirqep]
    rfl
  | iochgVcc active =>
    obtain ⟨hop, hz, hsig, hflag⟩ :=
      (eq_formatS_iff 2 0 0 active).1 (rfl : firstWord (.iochgVcc active) = _)
    simp [decodeHeader_of_op_two hop, decodeIochg, hz, hsig, hflag, headerOf]
  | iochgRst active =>
    obtain ⟨hop, hz, hsig, hflag⟩ :=
      (eq_formatS_iff 2 0 1 active).1 (rfl : firstWord (.iochgRst active) = _)
    simp [decodeHeader_of_op_two hop, decodeIochg, hz, hsig, hflag, headerOf]
  | iochgClk active =>
    obtain ⟨hop, hz, hsig, hflag⟩ :=
      (eq_formatS_iff 2 0 2 active).1 (rfl : firstWord (.iochgClk active) = _)
    simp [decodeHeader_of_op_two hop, decodeIochg, hz, hsig, hflag, headerOf]
  | rxb perr byte =>
    obtain ⟨hop, hz, hperr, hbyte⟩ :=
      (eq_formatB_iff 3 0 perr byte).1 (rfl : firstWord (.rxb perr byte) = _)
    rw [decodeHeader_of_op_three hop, if_pos hz, hperr, hbyte]
    rfl
  | txrdy nack =>
    obtain ⟨hop, hz, hflag⟩ := (eq_formatF_iff 4 0 nack).1 (rfl : firstWord (.txrdy nack) = _)
    rw [decodeHeader_of_op_four hop, if_pos hz, hflag]
    rfl
  | etu rdr =>
    obtain ⟨hop, hz, hflag⟩ := (eq_formatF_iff 9 0 rdr).1 (rfl : firstWord (.etu rdr) = _)
    rw [decodeHeader_of_op_nine hop, if_pos hz, hflag]
    rfl
  | setatr bytes =>
    have hlen : bytes.length < 256 := of_decide_eq_true hw
    obtain ⟨hop, hz, hbyte⟩ :=
      (eq_formatL_iff 6 0 (BitVec.ofNat 8 bytes.length)).1 (rfl : firstWord (.setatr bytes) = _)
    rw [decodeHeader_of_op_six hop, if_pos hz, hbyte, BitVec.toNat_ofNat, Nat.mod_eq_of_lt hlen]
    rfl
  | txqapp bytes =>
    have hlen : bytes.length < 4096 := of_decide_eq_true hw
    obtain ⟨hop, hlow⟩ :=
      (eq_formatN_iff 7 (BitVec.ofNat 12 bytes.length)).1 (rfl : firstWord (.txqapp bytes) = _)
    rw [decodeHeader_of_op_seven hop, hlow, BitVec.toNat_ofNat, Nat.mod_eq_of_lt hlen]
    rfl
  | wthalf | wtexp | gettxq | newtx | repstat | gviol => decide

section

variable {w : EventWord}

/-- A word that is decoded to a header is the first word of an event, which its fields spell out. -/
theorem exists_firstWord_of_legal (h : decodeHeader w ≠ none) :
    ∃ i : Instr, i.wellFormed = true ∧ w = firstWord i := by
  rcases op_cases w.op with
    hop | hop | hop | hop | hop | hop | hop | hop | hop | hop | hop
  · exact absurd (decodeHeader_of_op_unused hop) h
  · exact ⟨.init w.slot w.tc w.uart w.inep w.irqep, rfl,
      (eq_formatI_iff 1 _ _ _ _ _).2 ⟨hop, rfl, rfl, rfl, rfl, rfl⟩⟩
  · rw [decodeHeader_of_op_two hop, Ne, decodeIochg_eq_none_iff, not_or, not_not] at h
    obtain ⟨hz, hsig⟩ := h
    rcases sig_cases w.sig with hs | hs | hs | hs
    · exact ⟨.iochgVcc w.bit0, rfl, (eq_formatS_iff 2 0 0 _).2 ⟨hop, hz, hs, rfl⟩⟩
    · exact ⟨.iochgRst w.bit0, rfl, (eq_formatS_iff 2 0 1 _).2 ⟨hop, hz, hs, rfl⟩⟩
    · exact ⟨.iochgClk w.bit0, rfl, (eq_formatS_iff 2 0 2 _).2 ⟨hop, hz, hs, rfl⟩⟩
    · exact absurd hs hsig
  · have hz : w.extractLsb' 9 3 = 0 := by simpa [decodeHeader_of_op_three hop] using h
    exact ⟨.rxb w.perr w.byte, rfl, (eq_formatB_iff 3 0 _ _).2 ⟨hop, hz, rfl, rfl⟩⟩
  · have hz : w.extractLsb' 1 11 = 0 := by simpa [decodeHeader_of_op_four hop] using h
    exact ⟨.txrdy w.bit0, rfl, (eq_formatF_iff 4 0 _).2 ⟨hop, hz, rfl⟩⟩
  · rw [decodeHeader_of_op_five hop, Ne, decodeTimer_eq_none_iff] at h
    obtain hs | hs : w.low12 = 0 ∨ w.low12 = 1 := by bv_omega
    · exact ⟨.wthalf, rfl, (eq_formatN_iff 5 0).2 ⟨hop, hs⟩⟩
    · exact ⟨.wtexp, rfl, (eq_formatN_iff 5 1).2 ⟨hop, hs⟩⟩
  · have hz : w.extractLsb' 8 4 = 0 := by simpa [decodeHeader_of_op_six hop] using h
    refine ⟨.setatr (List.replicate w.byte.toNat 0), ?_, (eq_formatL_iff 6 0 _).2 ⟨hop, hz, ?_⟩⟩
    · simp [Instr.wellFormed, w.byte.isLt]
    · simp
  · refine ⟨.txqapp (List.replicate w.low12.toNat 0), ?_, (eq_formatN_iff 7 _).2 ⟨hop, ?_⟩⟩
    · simp [Instr.wellFormed, w.low12.isLt]
    · simp
  · rw [decodeHeader_of_op_eight hop, Ne, decodeTask_eq_none_iff] at h
    obtain hs | hs | hs : w.low12 = 0 ∨ w.low12 = 1 ∨ w.low12 = 2 := by bv_omega
    · exact ⟨.gettxq, rfl, (eq_formatN_iff 8 0).2 ⟨hop, hs⟩⟩
    · exact ⟨.newtx, rfl, (eq_formatN_iff 8 1).2 ⟨hop, hs⟩⟩
    · exact ⟨.repstat, rfl, (eq_formatN_iff 8 2).2 ⟨hop, hs⟩⟩
  · have hz : w.extractLsb' 1 11 = 0 := by simpa [decodeHeader_of_op_nine hop] using h
    exact ⟨.etu w.bit0, rfl, (eq_formatF_iff 9 0 _).2 ⟨hop, hz, rfl⟩⟩
  · have hlow : w.low12 = 0 := by simpa [decodeHeader_of_op_ten hop] using h
    exact ⟨.gviol, rfl, (eq_formatN_iff 10 0).2 ⟨hop, hlow⟩⟩

/-- The words that are decoded to a header are the first words of the events it announces. -/
theorem decodeHeader_eq_some_iff {h : Header} :
    decodeHeader w = some h ↔
      ∃ i : Instr, i.wellFormed = true ∧ headerOf i = h ∧ w = firstWord i := by
  constructor
  · intro hd
    obtain ⟨i, hwf, hw⟩ := exists_firstWord_of_legal (hd ▸ Option.some_ne_none h)
    rw [hw, decodeHeader_firstWord hwf] at hd
    exact ⟨i, hwf, Option.some.inj hd, hw⟩
  · rintro ⟨i, hwf, rfl, rfl⟩
    exact decodeHeader_firstWord hwf

end

end Sys2Proof.Proofs
end

section
/-! PROOFS. Decoding undoes encoding, and the converse (30_encoding.md R82 to R84). -/

namespace Sys2Proof.Proofs

open Sys2Proof Sys2Proof.Machine

/-- Settles O1: the header is read off the first word, and the data words it owes are those of the encoding. -/
theorem decodeOfEncodeIsTheEvent : Obligations.DecodeOfEncodeIsTheEvent := by
  unfold Obligations.DecodeOfEncodeIsTheEvent
  intro i rest hw
  have hhead : decodeHeader (firstWord i) = some (headerOf i) := decodeHeader_firstWord hw
  rw [encode_eq_cons, List.cons_append]
  cases i with
  | setatr bytes => exact (decode_setatr _ _ _ hhead).trans (decodeData_dataWords bytes rest _)
  | txqapp bytes => exact (decode_txqapp _ _ _ hhead).trans (decodeData_dataWords bytes rest _)
  | _ => exact decode_single _ _ _ hhead

/-- Words without a bit in 15:8 are the data words of their bytes (R84). -/
theorem map_dataWord_byte {ds : List EventWord} (h : ∀ d ∈ ds, d.high8 = 0) :
    (ds.map EventWord.byte).map dataWord = ds := by
  rw [List.map_map]
  exact (List.map_congr_left fun d hd => dataWord_of_high8 d (h d hd)).trans (List.map_id ds)

/-- Data words that are decoded are as many as the header owes, and are those of the bytes read (R84). -/
theorem data_of_decodeData {n : Nat} {ws rest : List EventWord} {mk : List Byte → Instr} {i : Instr}
    (h : decodeData n ws mk = .instr i rest) :
    ∃ bytes : List Byte, bytes.length = n ∧ i = mk bytes ∧ ws = bytes.map dataWord ++ rest := by
  by_cases hbad : ∃ d ∈ ws.take n, d.high8 ≠ 0
  · rw [decodeData_of_bad mk hbad] at h
    cases h
  have hgood : ∀ d ∈ ws.take n, d.high8 = 0 := by
    simpa only [not_exists, not_and, not_not] using hbad
  by_cases hlen : ws.length < n
  · rw [decodeData_of_short mk hgood hlen] at h
    cases h
  have htake : ((ws.take n).map EventWord.byte).map dataWord = ws.take n := map_dataWord_byte hgood
  have hn : ((ws.take n).map EventWord.byte).length = n := by
    rw [List.length_map, List.length_take_of_le (not_lt.1 hlen)]
  have hword : decodeData n ws mk = .instr (mk ((ws.take n).map EventWord.byte)) (ws.drop n) := by
    conv_lhs => rw [← List.take_append_drop n ws, ← htake]
    nth_rewrite 1 [← hn]
    exact decodeData_dataWords _ _ _
  obtain ⟨hi, hrest⟩ := Decoded.instr.inj (hword.symm.trans h)
  exact ⟨_, hn, hi.symm, by rw [htake, ← hrest, List.take_append_drop]⟩

/-- Settles O2, by the header of the first word: its event has the same first word, and the data words follow. -/
theorem decodedWordsAreTheEncoding : Obligations.DecodedWordsAreTheEncoding := by
  unfold Obligations.DecodedWordsAreTheEncoding
  rintro (_ | ⟨w, ws⟩) rest i hdec
  · cases hdec
  cases hh : decodeHeader w with
  | none => simp [decode, hh] at hdec
  | some h =>
    obtain ⟨j, hwf, rfl, rfl⟩ := decodeHeader_eq_some_iff.1 hh
    cases j with
    | setatr old =>
      rw [decode_setatr _ _ _ hh] at hdec
      obtain ⟨bytes, hlen, rfl, rfl⟩ := data_of_decodeData hdec
      exact ⟨by simpa only [Instr.wellFormed, hlen] using hwf, by simp [firstWord, encode, hlen]⟩
    | txqapp old =>
      rw [decode_txqapp _ _ _ hh] at hdec
      obtain ⟨bytes, hlen, rfl, rfl⟩ := data_of_decodeData hdec
      exact ⟨by simpa only [Instr.wellFormed, hlen] using hwf, by simp [firstWord, encode, hlen]⟩
    | _ =>
      rw [decode_single _ _ _ hh] at hdec
      obtain ⟨rfl, rfl⟩ := Decoded.instr.inj hdec
      exact ⟨hwf, rfl⟩

/-- Settles O5: each word list is an encoding, so O1 decodes it. -/
theorem sampleWordsDecode : Obligations.SampleWordsDecode := by
  unfold Obligations.SampleWordsDecode
  exact ⟨decodeOfEncodeIsTheEvent (.init 0 0 0 2 3) [] rfl,
    decodeOfEncodeIsTheEvent (.iochgRst true) [0x2001] rfl,
    decodeOfEncodeIsTheEvent (.rxb true 0xA0) [] rfl,
    decodeOfEncodeIsTheEvent (.setatr [0x3B, 0x02, 0x14, 0x50]) [] rfl,
    decodeOfEncodeIsTheEvent (.txqapp [0x60]) [0x8001] rfl,
    decodeOfEncodeIsTheEvent (.etu true) [] rfl⟩

end Sys2Proof.Proofs
end

section
/-! PROOFS. The table of event words and the illegal words (30_encoding.md R83, R85). -/

namespace Sys2Proof.Proofs

open Sys2Proof Sys2Proof.Machine

/-- A format S word with a `sig` of the table is legal. -/
theorem legal_of_sig {w : EventWord} {sig : BitVec 2} (hop : w.op = 2)
    (hmid : w.extractLsb' 1 (9 + 2) = 0#9 ++ sig) (hne : sig ≠ 3) : decodeHeader w ≠ none := by
  obtain ⟨hz, hsig⟩ := extractLsb_eq_append_iff.1 hmid
  rw [decodeHeader_of_op_two hop, Ne, decodeIochg_eq_none_iff]
  rintro (h | h)
  · exact h hz
  · exact hne (hsig.symm.trans h)

/-- A word that selects a row of R83 is legal: row by row, in the order of the table, the fields the row fixes are
those the decoder asks for. -/
theorem legal_of_selects {r : TableRow} {w : EventWord} (hr : r ∈ eventTable)
    (hs : r.selects w = true) : decodeHeader w ≠ none := by
  simp only [eventTable, List.mem_cons, List.not_mem_nil, or_false] at hr
  rcases hr with rfl | rfl | rfl | rfl | rfl | rfl | rfl | rfl | rfl | rfl | rfl | rfl | rfl | rfl | rfl
  · obtain ⟨hop, -⟩ := (selects_iff 1 12 0#0 rfl rfl rfl).1 hs
    simp [decodeHeader_of_op_one hop]
  · obtain ⟨hop, hmid⟩ := (selects_iff 2 1 (0#9 ++ 0#2) rfl rfl rfl).1 hs
    exact legal_of_sig hop hmid (by decide)
  · obtain ⟨hop, hmid⟩ := (selects_iff 2 1 (0#9 ++ 1#2) rfl rfl rfl).1 hs
    exact legal_of_sig hop hmid (by decide)
  · obtain ⟨hop, hmid⟩ := (selects_iff 2 1 (0#9 ++ 2#2) rfl rfl rfl).1 hs
    exact legal_of_sig hop hmid (by decide)
  · obtain ⟨hop, hz⟩ := (selects_iff 3 9 0#3 rfl rfl rfl).1 hs
    simp [decodeHeader_of_op_three hop, hz]
  · obtain ⟨hop, hz⟩ := (selects_iff 4 1 0#11 rfl rfl rfl).1 hs
    simp [decodeHeader_of_op_four hop, hz]
  · obtain ⟨hop, hlow⟩ : _ ∧ w.low12 = 0 := (selects_iff 5 0 0#12 rfl rfl rfl).1 hs
    simp [decodeHeader_of_op_five hop, decodeTimer, hlow]
  · obtain ⟨hop, hlow⟩ : _ ∧ w.low12 = 1 := (selects_iff 5 0 1#12 rfl rfl rfl).1 hs
    simp [decodeHeader_of_op_five hop, decodeTimer, hlow]
  · obtain ⟨hop, hz⟩ := (selects_iff 6 8 0#4 rfl rfl rfl).1 hs
    simp [decodeHeader_of_op_six hop, hz]
  · obtain ⟨hop, -⟩ := (selects_iff 7 12 0#0 rfl rfl rfl).1 hs
    simp [decodeHeader_of_op_seven hop]
  · obtain ⟨hop, hlow⟩ : _ ∧ w.low12 = 0 := (selects_iff 8 0 0#12 rfl rfl rfl).1 hs
    simp [decodeHeader_of_op_eight hop, decodeTask, hlow]
  · obtain ⟨hop, hlow⟩ : _ ∧ w.low12 = 1 := (selects_iff 8 0 1#12 rfl rfl rfl).1 hs
    simp [decodeHeader_of_op_eight hop, decodeTask, hlow]
  · obtain ⟨hop, hlow⟩ : _ ∧ w.low12 = 2 := (selects_iff 8 0 2#12 rfl rfl rfl).1 hs
    simp [decodeHeader_of_op_eight hop, decodeTask, hlow]
  · obtain ⟨hop, hz⟩ := (selects_iff 9 1 0#11 rfl rfl rfl).1 hs
    simp [decodeHeader_of_op_nine hop, hz]
  · obtain ⟨hop, hlow⟩ : _ ∧ w.low12 = 0 := (selects_iff 10 0 0#12 rfl rfl rfl).1 hs
    simp [decodeHeader_of_op_ten hop, hlow]

open Laws.HeaderSelectsItsRow in
/-- The first word of an event selects the event's row (R83). -/
theorem headerSelectsItsRow (i : Instr) : Statement i := by
  cases i with
  | init slot tc uart inep irqep => exact init slot tc uart inep irqep
  | iochgVcc active => exact iochgVcc active
  | iochgRst active => exact iochgRst active
  | iochgClk active => exact iochgClk active
  | rxb perr byte => exact rxb perr byte
  | txrdy nack => exact txrdy nack
  | wthalf => exact wthalf
  | wtexp => exact wtexp
  | setatr bytes => exact setatr bytes
  | txqapp bytes => exact txqapp bytes
  | gettxq => exact gettxq
  | newtx => exact newtx
  | repstat => exact repstat
  | etu rdr => exact etu rdr
  | gviol => exact gviol

theorem rowOf_firstWord {i : Instr} (hw : i.wellFormed = true) :
    (eventTable.find? (fun r => r.selects (firstWord i))).map TableRow.mnemonic =
      some (mnemonicOf i) := by
  obtain ⟨w, ws, hcons, hrow, -⟩ := headerSelectsItsRow i hw
  obtain rfl : firstWord i = w := by rw [firstWord, hcons, List.headD_cons]
  exact hrow

/-- Rows that ask different values of a bit both fix are selected by no word together. -/
theorem rows_disjoint {r q : TableRow} (h : r.pattern &&& q.mask ≠ q.pattern &&& r.mask)
    (w : EventWord) : ¬ (r.selects w = true ∧ q.selects w = true) := by
  rintro ⟨hr, hq⟩
  have hr : w &&& r.mask = r.pattern := beq_iff_eq.1 hr
  have hq : w &&& q.mask = q.pattern := beq_iff_eq.1 hq
  apply h
  rw [← hr, ← hq, BitVec.and_assoc, BitVec.and_assoc, BitVec.and_comm r.mask]

/-- Settles O3: a decoded word is the first word of an event, whose row it selects; a word that selects a row is
decoded; and any two rows ask different values of a bit. -/
theorem decoderFollowsTheEventTable : Obligations.DecoderFollowsTheEventTable := by
  unfold Obligations.DecoderFollowsTheEventTable
  constructor
  · intro w
    cases hh : decodeHeader w with
    | some h =>
      obtain ⟨i, hwf, rfl, rfl⟩ := decodeHeader_eq_some_iff.1 hh
      rw [rowOf_firstWord hwf, Option.map_some, headerMnemonic_headerOf]
    | none =>
      have hnone : eventTable.find? (fun r => r.selects w) = none :=
        List.find?_eq_none.2 fun r hr hs => legal_of_selects hr hs hh
      rw [hnone, Option.map_none, Option.map_none]
  · have hdiffer : eventTable.Pairwise
        (fun r q => r.pattern &&& q.mask ≠ q.pattern &&& r.mask) := by decide
    exact hdiffer.imp rows_disjoint

/-- The branch of `step` for an illegal word (R85). -/
theorem step_of_illegal {s : State} {w : EventWord} {rest : List EventWord}
    (hw : decodeHeader w = none) (hs : s.ports.events = w :: rest) :
    step s = created s (illegalWord (s.takeEvent rest)) := by
  simp only [step, hs, decode, hw]

/-- A word in header position is taken, refused, or waits for its data words. -/
theorem decode_cons_ne_empty (w : EventWord) (ws : List EventWord) : decode (w :: ws) ≠ .empty := by
  have hdata : ∀ n mk, decodeData n ws mk ≠ .empty := by
    intro n mk
    unfold decodeData
    split_ifs <;> simp
  cases hh : decodeHeader w with
  | none => simp [decode, hh]
  | some h =>
    cases h with
    | single i => simp [decode_single w ws i hh]
    | setatr n => exact decode_setatr w ws n hh ▸ hdata n _
    | txqapp n => exact decode_txqapp w ws n hh ▸ hdata n _

/-- Before `INIT` a word in header position that is no `INIT` is refused (R85, R115). -/
theorem step_refused {s : State} {w : EventWord} {rest : List EventWord}
    (hi : s.ident.inited = false) (hs : s.ports.events = w :: rest) (hop : w.op ≠ 1) :
    ∃ r, step s = .refused r := by
  cases hdec : decode s.ports.events with
  | empty => exact absurd (hs ▸ hdec) (decode_cons_ne_empty w rest)
  | instr i after =>
    have hne : ∀ slot tc uart inep irqep, i ≠ .init slot tc uart inep irqep := by
      rintro slot tc uart inep irqep rfl
      obtain ⟨-, henc⟩ := decodedWordsAreTheEncoding _ _ _ hdec
      obtain ⟨rfl, -⟩ := List.cons.inj (hs.symm.trans henc)
      exact hop ((eq_formatI_iff 1 slot tc uart inep irqep).1 rfl).1
    exact ⟨_, (step_of_decode_instr hdec).trans (nothingButInitBeforeInit i _ hi hne)⟩
  | illegal after => exact ⟨_, by simp only [step, hdec]; exact created_of_not_inited _ _ hi⟩
  | badData => exact ⟨_, by simp only [step, hdec]; rfl⟩
  | owed => exact ⟨_, by simp only [step, hdec]; rfl⟩

/-- Settles O4, by the opcode and by the answer of the decoder. -/
theorem illegalWordsAreAnsweredNotObeyed : Obligations.IllegalWordsAreAnsweredNotObeyed := by
  unfold Obligations.IllegalWordsAreAnsweredNotObeyed
  refine ⟨decodeHeader_eq_none_iff, fun s w rest hw hs => ?_,
    fun s w rest hi hs hop => step_refused hi hs hop⟩
  rw [step_of_illegal hw hs]
  rfl

end Sys2Proof.Proofs
end


section
/-! PROOFS. The command stream (30_encoding.md R86, R87): reading the words of a command by their layout. -/

namespace Sys2Proof.Proofs

open Sys2Proof Sys2Proof.Machine

section

variable (cop : BitVec 4) (ch : BitVec 2)

/-- The upper of two operands that fill the payload (`SET_FD`). -/
theorem cmdWord_upper (f : BitVec 16) (d : BitVec 8) :
    (cmdWord cop ch (f ++ d)).extractLsb' 8 16 = f :=
  (cmdWord_payload cop ch _ 8 16 (by decide)).trans (extractLsb_append_high f d)

/-- The lower of two operands that fill the payload (`SET_FD`), or a byte below sixteen zeros. -/
theorem cmdWord_lower (f : BitVec 16) (d : BitVec 8) :
    (cmdWord cop ch (f ++ d)).extractLsb' 0 8 = d :=
  (cmdWord_payload cop ch _ 0 8 (by decide)).trans (extractLsb_append_low f d)

/-- A payload of 24 bits. -/
theorem cmdWord_full (p : BitVec 24) : (cmdWord cop ch p).extractLsb' 0 24 = p :=
  (cmdWord_payload cop ch p 0 24 (by decide)).trans BitVec.extractLsb'_eq_self

/-- A mask of two bits at the foot of the payload. -/
theorem cmdWord_mask (m : BitVec 2) :
    (cmdWord cop ch ((0 : BitVec 22) ++ m)).extractLsb' 0 2 = m :=
  (cmdWord_payload cop ch _ 0 2 (by decide)).trans (extractLsb_append_low _ m)

/-- A level in bit 0 of the payload. -/
theorem cmdWord_level (level : Bool) :
    (cmdWord cop ch ((0 : BitVec 23) ++ BitVec.ofBool level)).getLsbD 0 = level :=
  extractLsb_eq_ofBool_iff.1
    ((cmdWord_payload cop ch _ 0 1 (by decide)).trans (extractLsb_append_low _ _))

end

/-- Settles O6: the opcode of each command selects its layout, and the channel and the payload stand in their own
bits. -/
theorem commandWordsCarryTheCommand : Obligations.CommandWordsCarryTheCommand := by
  unfold Obligations.CommandWordsCarryTheCommand
  intro id c rest
  cases c <;>
    simp only [commandWords, readCommand, List.cons_append, List.nil_append, cmdWord_cop, cmdWord_chan,
      cmdWord_upper, cmdWord_lower, cmdWord_full, cmdWord_mask, cmdWord_level] <;>
    rfl

end Sys2Proof.Proofs
end

section
/-! PROOFS. `INIT` before and after the handle exists, and the signal monitor level by level
(40_init_and_signal_monitor.md R110 to R115). -/

namespace Sys2Proof.Proofs

open Sys2Proof Sys2Proof.Machine

variable {s : State}

/-! ### INIT -/

/-- While the handle does not exist, the configuration alone decides whether `INIT` completes (U8). -/
theorem exec_init_of_fresh (slot tc uart : BitVec 2) (inep irqep : BitVec 3)
    (h : s.ident.inited = false) :
    exec (.init slot tc uart inep irqep) s =
      if configInRange s.config then .next (initHandle slot tc uart inep irqep s)
      else .refused .illegalConfig := by
  simp only [exec, execInit, h, Bool.false_eq_true, if_false]

/-- Settles O10, by whether the configuration is in range: then the default ATR fits its buffer, which is all the
column "after INIT" needs of it. -/
theorem initCreatesTheHandle : Obligations.InitCreatesTheHandle := by
  unfold Obligations.InitCreatesTheHandle
  intro slot tc uart inep irqep s hfresh
  rw [exec_init_of_fresh slot tc uart inep irqep hfresh]
  constructor
  · intro hrange
    have hfit := (inRange_of_check hrange).defaultAtr_fits
    rw [if_pos hrange, initHandle_eq slot tc uart inep irqep hfit]
    rfl
  · intro hrange
    rw [if_neg (by simp [hrange])]

/-- The effect of an illegal word, with the code of `ERR_ILLEGAL` written out (R85, R88). -/
theorem illegalWord_eq (s : State) : illegalWord s = (contractErrSet s).returns 15 := rfl

/-- Settles O11: a second `INIT` has the effect of an illegal word (log entry 5). -/
theorem secondInitIsAnsweredIllegal : Obligations.SecondInitIsAnsweredIllegal := by
  unfold Obligations.SecondInitIsAnsweredIllegal
  intro slot tc uart inep irqep s hi
  rw [exec_of_inited _ hi]
  exact congrArg _ (illegalWord_eq s)

/-! ### VCC (R112) -/

/-- The level the latch already holds asks for nothing. -/
theorem afterVcc_repeated (a : Bool) (l : State) : afterVcc a a l = l := by
  cases a <;> simp [afterVcc]

/-- A level reported again changes nothing: the latch is written with its own value. -/
theorem iochgVcc_repeated {a : Bool} (h : s.lines.vcc = a) : iochgVcc a s = s := by
  subst h
  rw [iochgVcc_eq, afterVcc_repeated]
  rfl

/-- Power comes: a reset event if RST is asserted. -/
theorem iochgVcc_rise (h : s.lines.vcc = false) :
    iochgVcc true s =
      if s.lines.rst then afterReset (latched (.iochgVcc true) s) else latched (.iochgVcc true) s := by
  rw [iochgVcc_eq, afterVcc, if_pos ⟨h, rfl⟩, resetEvent_eq]
  rfl

/-- Power goes: power-off, whatever the phase. -/
theorem iochgVcc_fall (h : s.lines.vcc = true) :
    iochgVcc false s = afterPowerOff (latched (.iochgVcc false) s) := by
  rw [iochgVcc_eq, afterVcc, if_neg (by simp), if_pos ⟨h, rfl⟩, powerOff_eq]

/-- Settles O12, by the level before and the level reported. -/
theorem vccChangeResetsOrPowersOff : Obligations.VccChangeResetsOrPowersOff := by
  unfold Obligations.VccChangeResetsOrPowersOff
  intro active s hi
  rw [exec_of_inited _ hi]
  refine congrArg _ ?_
  cases hv : s.lines.vcc <;> cases active
  case false.false => exact iochgVcc_repeated hv
  case false.true => exact iochgVcc_rise hv
  case true.false => exact iochgVcc_fall hv
  case true.true => exact iochgVcc_repeated hv

/-! ### RST (R113) -/

/-- The level the latch already holds asks for nothing. -/
theorem afterRst_repeated (a : Bool) (l : State) : afterRst a a l = l := by
  cases a <;> simp [afterRst]

/-- A level reported again changes nothing: the latch is written with its own value. -/
theorem iochgRst_repeated {a : Bool} (h : s.lines.rst = a) : iochgRst a s = s := by
  subst h
  rw [iochgRst_eq, afterRst_repeated]
  rfl

/-- RST asserted: a reset event if the card has power. -/
theorem iochgRst_asserted (h : s.lines.rst = false) :
    iochgRst true s =
      if s.lines.vcc then afterReset (latched (.iochgRst true) s) else latched (.iochgRst true) s := by
  rw [iochgRst_eq, afterRst, if_pos ⟨h, rfl⟩, resetEvent_eq]
  rfl

/-- RST released: only after the hold time does more than the latch change, and then by the held ATR. -/
theorem iochgRst_released (h : s.lines.rst = true) :
    iochgRst false s =
      if s.phase = .resetAsserted ∧ s.config.resetHoldMinEtu ≤ s.eng.rstHoldCnt.toNat then
        if atrValid s.config s.atr.buf s.atr.len.toNat then afterRelease (latched (.iochgRst false) s)
        else afterHalt .atrMalformed (latched (.iochgRst false) s)
      else latched (.iochgRst false) s := by
  rw [iochgRst_eq, afterRst, if_neg (by simp), if_pos ⟨h, rfl⟩, startDelivery_eq, halt_eq]
  rfl

/-- Settles O13, by the level before and the level reported. -/
theorem rstChangeResetsOrStartsTheAtr : Obligations.RstChangeResetsOrStartsTheAtr := by
  unfold Obligations.RstChangeResetsOrStartsTheAtr
  intro active s hi
  rw [exec_of_inited _ hi]
  refine congrArg _ ?_
  cases hr : s.lines.rst <;> cases active
  case false.false => exact iochgRst_repeated hr
  case false.true => exact iochgRst_asserted hr
  case true.false => exact iochgRst_released hr
  case true.true => exact iochgRst_repeated hr

/-! ### CLK (R114, R200) -/

/-- Without the clock no etu passes. -/
theorem etu_of_clock_stopped (rdr : Bool) (h : s.lines.clk = false) : etu rdr s = s := by
  unfold etu
  rw [if_neg (by simp [h])]

/-- Settles O14: the word for each level, the latch, and the tick that finds the clock stopped. -/
theorem clkChangeWritesItsLatch : Obligations.ClkChangeWritesItsLatch := by
  unfold Obligations.ClkChangeWritesItsLatch
  intro active s hi t
  have hword : encode (.iochgClk active) = [0x2004 ||| (BitVec.ofBool active).setWidth 16] := by
    cases active <;> rfl
  refine ⟨hword, exec_of_inited _ hi, fun hstop rdr => ?_⟩
  have htick : etu rdr t = t := etu_of_clock_stopped rdr hstop
  rw [exec_of_inited _ (show t.ident.inited = true from hi)]
  exact congrArg _ htick

end Sys2Proof.Proofs
end

section
/-! PROOFS. `RXB` by the receiving state the byte finds, and `TXRDY` that is out of place or a rejection
(41_protocol_fsm.md R131 to R136). -/

namespace Sys2Proof.Proofs

open Sys2Proof Sys2Proof.Machine

variable {s : State}

/-! ### RXB (R131, R132) -/

/-- A byte that is not legal now is dropped. -/
theorem rxb_of_not_receives (perr : Bool) (b : Byte) (h : ¬ Receives s) :
    rxb perr b s = contractErrSet s := by
  have hrec : ¬ receiving s = true := fun hx => h ((receiving_iff s).1 hx)
  unfold rxb
  rw [if_neg hrec]
  rfl

/-- A legal byte restarts the waiting time before it is looked at. -/
theorem rxb_of_receives (perr : Bool) (b : Byte) (h : Receives s) :
    rxb perr b s =
      if perr then rxParityError (afterRxRestart s) else rxGoodByte b (afterRxRestart s) := by
  have hrec : receiving s = true := (receiving_iff s).2 h
  have hrestart : emit .resetWt s = afterRxRestart s := emit_resetWt s
  unfold rxb
  rw [if_pos hrec, hrestart]

/-- A good byte after the ATR is the first byte of the reader. -/
theorem rxb_good_delivery (b : Byte) (hp : s.phase = .atrDelivery) (hd : s.atr.done = true) :
    rxb false b s = firstByte b (afterRxGood s) := by
  rw [rxb_of_receives _ _ (Or.inl ⟨hp, hd⟩), if_neg (by simp), rxGoodByte, if_pos (by exact hp)]
  rfl

/-- A good byte of a PPS request is collected. -/
theorem rxb_good_pps (b : Byte) (hp : s.phase = .ppsNegotiation) (hr : s.pps.respLen = 0) :
    rxb false b s = ppsCollect b (afterRxGood s) := by
  have hgood : (afterRxGood s).phase = .ppsNegotiation := hp
  have hdel : ¬ (afterRxGood s).phase = .atrDelivery := by simp [hgood]
  rw [rxb_of_receives _ _ (Or.inr (Or.inl ⟨hp, hr⟩)), if_neg (by simp), rxGoodByte, if_neg (by exact hdel),
    if_pos (by exact hgood)]
  rfl

/-- A good byte of the exchange is delivered. -/
theorem rxb_good_exchange (b : Byte) (hp : s.phase = .tpduExchange) :
    rxb false b s = (afterRxGood s).emits [rxDeliverWord s.ident b] := by
  have hgood : (afterRxGood s).phase = .tpduExchange := hp
  have hdel : ¬ (afterRxGood s).phase = .atrDelivery := by simp [hgood]
  have hpps : ¬ (afterRxGood s).phase = .ppsNegotiation := by simp [hgood]
  rw [rxb_of_receives _ _ (Or.inr (Or.inr hp)), if_neg (by simp), rxGoodByte, if_neg (by exact hdel),
    if_neg (by exact hpps), emit_rxDeliver]
  rfl

/-- Settles O19: not receiving is the whole of the first test of R132. -/
theorem byteOutOfPlaceIsAContractError : Obligations.ByteOutOfPlaceIsAContractError := by
  unfold Obligations.ByteOutOfPlaceIsAContractError
  intro perr b s hi hrec
  rw [exec_of_inited _ hi]
  exact congrArg _ (rxb_of_not_receives perr b hrec)

/-- Settles O20: the exchange receives, whether or not the transmitter runs. -/
theorem goodByteIsDelivered : Obligations.GoodByteIsDelivered := by
  unfold Obligations.GoodByteIsDelivered
  intro b s hi hp
  rw [exec_of_inited _ hi]
  exact congrArg _ (rxb_good_exchange b hp)

/-! ### A failure counted against the retry budget (R135, R136) -/

/-- One parity failure more. -/
def failureCounted (s : State) : State :=
  { s with seq := { s.seq with retryCnt := s.seq.retryCnt + 1 } }

theorem withSeq_failureCounted (s : State) :
    s.withSeq { s.seq with retryCnt := BitVec.ofNat 4 (s.seq.retryCnt.toNat + 1) } = failureCounted s := by
  rw [retryCnt_succ]
  rfl

/-- The error signal: the line pulled low, for `ERR_SIGNAL_ETU` ticks (R135). -/
def errorSignalled (s : State) : State :=
  ({ s with
      line :=
        { s.line with ioDrv := false, errsigCnt := BitVec.ofNat 2 s.config.errSignalEtu } } : State).emits
    [driveIoWord s.ident false]

/-- A parity error halts when it uses up the budget, and is signalled to the reader otherwise (R135). -/
theorem rxParityError_eq (s : State) :
    rxParityError s =
      if s.config.parityRetryBudget ≤ s.seq.retryCnt.toNat + 1 then
        afterHalt .parityRetry (failureCounted s)
      else errorSignalled (failureCounted s) := by
  unfold rxParityError
  rw [withSeq_failureCounted]
  dsimp only
  rw [halt_eq, emit_driveIo]
  rfl

/-- Settles O21: the byte is legal, so its failure is counted in any of the receiving states. -/
theorem parityErrorSignalsOrHalts : Obligations.ParityErrorSignalsOrHalts := by
  unfold Obligations.ParityErrorSignalsOrHalts
  intro b s hi hrec
  have hrx : rxb true b s = rxParityError (afterRxRestart s) := rxb_of_receives true b hrec
  rw [exec_of_inited _ hi]
  refine congrArg _ (hrx.trans ?_)
  rw [rxParityError_eq]
  rfl

/-! ### The first byte after an ATR that offers PPS (R134) -/

/-- 0xFF opens a PPS request, of which it is the first byte. -/
def ppsOpened (s : State) : State :=
  enterPhase .ppsNegotiation
    { s with pps := { s.pps with req := s.pps.req.set 0 0xFF, reqLen := 1, expLen := 0 } }

/-- Any other byte is the first one of a command. -/
def commandOpened (b : Byte) (s : State) : State :=
  afterKick ((enterPhase .tpduExchange s).emits [rxDeliverWord s.ident b])

theorem firstByte_eq (b : Byte) (s : State) :
    firstByte b s = if b = 0xFF then ppsOpened s else commandOpened b s := by
  unfold firstByte
  rw [kick_eq, emit_rxDeliver]
  rfl

/-- Settles O22: the byte is the first one of the reader, good and legal. -/
theorem firstByteDecidesPpsOrCommand : Obligations.FirstByteDecidesPpsOrCommand := by
  unfold Obligations.FirstByteDecidesPpsOrCommand
  intro b s hi hp hd
  rw [exec_of_inited _ hi]
  refine congrArg _ ((rxb_good_delivery b hp hd).trans ?_)
  rw [firstByte_eq]
  rfl

/-! ### TXRDY out of place, and the rejection (R133, R136) -/

/-- Outside the exchange phases (R133 step 1). -/
theorem txrdy_of_no_exchange (n : Bool) (h : exchangePhase s.phase = false) : txrdy n s = s.returns 8 := by
  unfold txrdy
  rw [if_pos h]
  rfl

/-- With the line not turned (R133 step 2). -/
theorem txrdy_of_inactive (n : Bool) (h : exchangePhase s.phase = true) (ha : s.seq.txActive = false) :
    txrdy n s = s.returns 1 := by
  unfold txrdy
  rw [if_neg (by simp [h]), if_pos ha]
  rfl

/-- With the byte that awaits acknowledgement rejected (R133 step 3). -/
theorem txrdy_of_rejection {n : Bool} (h : exchangePhase s.phase = true) (ha : s.seq.txActive = true)
    (hn : (s.seq.txLastValid && n) = true) : txrdy n s = txNack s := by
  unfold txrdy
  rw [if_neg (by simp [h]), if_neg (by simp [ha]), if_pos hn]

/-- Settles O24, by the first two tests of R133. -/
theorem txrdyOutOfPlaceReturnsAStatus : Obligations.TxrdyOutOfPlaceReturnsAStatus := by
  unfold Obligations.TxrdyOutOfPlaceReturnsAStatus
  intro n s hi
  rw [exec_of_inited _ hi]
  refine ⟨fun hp => ?_, fun hex ha => congrArg _ (txrdy_of_inactive n hex ha)⟩
  have hout : exchangePhase s.phase = false := by
    rcases hp with hp | hp | hp <;> rw [hp] <;> rfl
  exact congrArg _ (txrdy_of_no_exchange n hout)

/-- A rejection halts when it uses up the budget, and has the byte handed over again otherwise (R136). -/
theorem txNack_eq (s : State) :
    txNack s =
      if s.config.parityRetryBudget ≤ s.seq.retryCnt.toNat + 1 then
        (afterHalt .parityRetry (failureCounted s)).returns 11
      else (restartIfArmed (emit (.txByte s.seq.txLast) (failureCounted s))).returns 0 := by
  unfold txNack
  rw [withSeq_failureCounted]
  dsimp only
  rw [halt_eq]
  rfl

/-- Handing over the byte that awaits acknowledgement is a `send` of it: the sequencer stands as `send` would
leave it (R138). -/
theorem afterSend_txLast (ha : s.seq.txActive = true) (hv : s.seq.txLastValid = true) :
    afterSend s.seq.txLast s = restartIfArmed (emit (.txByte s.seq.txLast) s) := by
  have hseq : s.withSeq { s.seq with txLast := s.seq.txLast, txLastValid := true, txActive := true } = s :=
    calc s.withSeq ⟨s.seq.retryCnt, s.seq.txLast, true, true⟩
        = s.withSeq ⟨s.seq.retryCnt, s.seq.txLast, s.seq.txLastValid, s.seq.txActive⟩ := by rw [ha, hv]
      _ = s := rfl
  rw [← send_eq, send, hseq]

/-- Settles O25: the rejection, with the byte repeated as a `send`. -/
theorem rejectedByteIsRepeatedOrHalts : Obligations.RejectedByteIsRepeatedOrHalts := by
  unfold Obligations.RejectedByteIsRepeatedOrHalts
  intro s hi hex ha hv
  have hrej : txrdy true s = txNack s := txrdy_of_rejection hex ha (by simp [hv])
  have hrepeat : afterSend s.seq.txLast (failureCounted s) =
      restartIfArmed (emit (.txByte s.seq.txLast) (failureCounted s)) :=
    afterSend_txLast (s := failureCounted s) ha hv
  rw [exec_of_inited _ hi]
  refine congrArg _ (hrej.trans ?_)
  rw [txNack_eq]
  dsimp only
  rw [← hrepeat]
  rfl

end Sys2Proof.Proofs
end

section
/-! PROOFS. A new phase is always reported (41_protocol_fsm.md R130, 46_txqueue_and_status.md R255): the operations
that write `PHASE` emit the record of the phase they enter, all others leave `PHASE` alone, and both facts
compose. -/

namespace Sys2Proof.Proofs

open Sys2Proof Sys2Proof.Machine

variable {s t u : State}

/-- Among the words is the whole STATUS record of a state in phase `p` under the identity `id`. -/
def RecordIn (id : Ident) (p : Phase) (ws : List CmdWord) : Prop :=
  ∃ (u : State) (before after : List CmdWord),
    u.phase = p ∧ u.ident = id ∧ ws = before ++ statusWords u ++ after

/-- More words on either side hide no record. -/
theorem RecordIn.append {id : Ident} {p : Phase} {ws : List CmdWord} (h : RecordIn id p ws)
    (v w : List CmdWord) : RecordIn id p (v ++ ws ++ w) := by
  obtain ⟨u, before, after, hp, hid, rfl⟩ := h
  exact ⟨u, v ++ before, after ++ w, hp, hid, by simp⟩

/-- From `s` to `t` words were added to the command port, among them a record of the phase of `t` unless `s` was
in that phase already. -/
structure Reports (s t : State) : Prop where
  ident : t.ident = s.ident
  words : ∃ ws, t.ports.cmds = s.ports.cmds ++ ws ∧
    (t.phase = s.phase ∨ RecordIn s.ident t.phase ws)

/-! ### How reports arise and compose -/

theorem Reports.refl (s : State) : Reports s s := ⟨rfl, [], by simp, Or.inl rfl⟩

/-- The record of the last change of phase is the one that counts. -/
theorem Reports.trans (h : Reports s t) (g : Reports t u) : Reports s u := by
  obtain ⟨hid, v, hv, hrep⟩ := h
  obtain ⟨gid, w, hw, grep⟩ := g
  refine ⟨gid.trans hid, v ++ w, by rw [hw, hv, List.append_assoc], ?_⟩
  rcases grep with gp | grep
  · rw [gp]
    refine hrep.imp id (fun hrec => ?_)
    simpa using hrec.append [] w
  · rw [hid] at grep
    exact Or.inr (by simpa using grep.append v [])

/-- Writes to other registers, and values returned, change nothing about a report. -/
theorem Reports.write (h : Reports s t) (hid : u.ident = t.ident) (hp : u.phase = t.phase)
    (hc : u.ports.cmds = t.ports.cmds) : Reports s u :=
  h.trans ⟨hid, [], by simp [hc], Or.inl hp⟩

theorem Reports.withLines (h : Reports s t) (v : Lines) : Reports s (t.withLines v) := h.write rfl rfl rfl
theorem Reports.withAtr (h : Reports s t) (v : AtrHolder) : Reports s (t.withAtr v) := h.write rfl rfl rfl
theorem Reports.withPatr (h : Reports s t) (v : PendingAtr) : Reports s (t.withPatr v) := h.write rfl rfl rfl
theorem Reports.withFd (h : Reports s t) (v : FdRegs) : Reports s (t.withFd v) := h.write rfl rfl rfl
theorem Reports.withWt (h : Reports s t) (v : WaitRegs) : Reports s (t.withWt v) := h.write rfl rfl rfl
theorem Reports.withPps (h : Reports s t) (v : PpsRegs) : Reports s (t.withPps v) := h.write rfl rfl rfl
theorem Reports.withSeq (h : Reports s t) (v : SeqRegs) : Reports s (t.withSeq v) := h.write rfl rfl rfl
theorem Reports.withErr (h : Reports s t) (v : ErrRegs) : Reports s (t.withErr v) := h.write rfl rfl rfl
theorem Reports.withTxq (h : Reports s t) (v : TxQueue) : Reports s (t.withTxq v) := h.write rfl rfl rfl
theorem Reports.withLine (h : Reports s t) (v : LineCtl) : Reports s (t.withLine v) := h.write rfl rfl rfl
theorem Reports.withFr (h : Reports s t) (v : FramerRegs) : Reports s (t.withFr v) := h.write rfl rfl rfl

theorem Reports.returns (h : Reports s t) (v : BitVec 8) : Reports s (t.returns v) := h.write rfl rfl rfl

theorem Reports.emit (h : Reports s t) (c : Command) : Reports s (emit c t) :=
  h.trans ⟨emit_ident t c, commandWords t.ident c, rfl, Or.inl (emit_phase t c)⟩

/-- A phase entered, with a record of it as the last words. -/
theorem Reports.enter (hid : u.ident = s.ident) (hc : u.ports.cmds = s.ports.cmds)
    (before : List CmdWord) : Reports s (u.emits (before ++ statusWords u)) :=
  ⟨hid, before ++ statusWords u, by simp [hc], Or.inr ⟨u, before, [], rfl, hid, by simp⟩⟩

/-! ### The writers of PHASE (R113, R134, R140 to R142, R165, R187) -/

section

variable (s)

theorem halt_reports (c : ErrCause) : Reports s (halt c s) := by
  rw [halt_eq]
  exact Reports.enter (s := s) (u := haltRegs c s) rfl rfl (quiesceWords s.ident)

theorem powerOff_reports : Reports s (powerOff s) := by
  rw [powerOff_eq]
  exact Reports.enter (s := s) (u := powerOffRegs s) rfl rfl (quiesceWords s.ident)

theorem resetEvent_reports : Reports s (resetEvent s) := by
  rw [resetEvent_eq]
  exact Reports.enter (s := s) (u := resetRegs s) rfl rfl _

theorem startDelivery_reports : Reports s (startDelivery s) := by
  rw [startDelivery_eq]
  exact Reports.enter (s := s) (u := deliveryRegs s) rfl rfl [enableWord s.ident 2, requestIrqWord s.ident]

theorem enterPhase_reports (p : Phase) : Reports s (enterPhase p s) :=
  Reports.enter (s := s) (u := { s with phase := p }) rfl rfl []

theorem startTransmit_reports : Reports s (startTransmit s) :=
  (((Reports.refl s).withSeq _).emit _).emit _

theorem kick_reports : Reports s (kick s) := by
  unfold kick
  split
  · exact startTransmit_reports s
  · exact Reports.refl s

theorem ppsOpened_reports : Reports s (ppsOpened s) :=
  ((Reports.refl s).withPps _).trans (enterPhase_reports _ _)

theorem commandOpened_reports (b : Byte) : Reports s (commandOpened b s) := by
  have hdelivered := (enterPhase_reports s .tpduExchange).emit (.rxDeliver b)
  rw [emit_rxDeliver] at hdelivered
  unfold commandOpened
  rw [← kick_eq]
  exact hdelivered.trans (kick_reports _)

theorem firstByte_reports (b : Byte) : Reports s (firstByte b s) := by
  rw [firstByte_eq]
  split
  · exact ppsOpened_reports s
  · exact commandOpened_reports s b

theorem atrComplete_reports : Reports s (atrComplete s) := by
  have harmed : Reports s (emit (.updateWt (wtValue s.config s.fd.di))
      (s.withAtr { s.atr with done := true })) := ((Reports.refl s).withAtr _).emit _
  unfold atrComplete
  dsimp only
  split
  · exact harmed
  · exact harmed.trans (enterPhase_reports _ .tpduExchange)

theorem ppsComplete_reports : Reports s (ppsComplete s) :=
  (((((((Reports.refl s).emit _).withFd _).emit _).emit _).withPps _).trans
    (enterPhase_reports _ .tpduExchange))

/-! ### RXB (R132 to R135, R184, R185) -/

theorem ppsEval_reports : Reports s (ppsEval s) := by
  unfold ppsEval
  dsimp only
  split
  · exact halt_reports s _
  · split
    · exact (((Reports.refl s).withFd _).withPps _).trans (startTransmit_reports _)
    · exact halt_reports s _

theorem ppsCollect_reports (b : Byte) : Reports s (ppsCollect b s) := by
  have hcollected : Reports s (s.withPps (ppsAppend b s.pps)) := (Reports.refl s).withPps _
  unfold ppsCollect
  dsimp only
  split
  · exact hcollected.trans (ppsEval_reports _)
  · exact hcollected

theorem rxParityError_reports : Reports s (rxParityError s) := by
  have hcounted : Reports s (failureCounted s) := (Reports.refl s).withSeq _
  rw [rxParityError_eq]
  split
  · rw [← halt_eq]
    exact hcounted.trans (halt_reports _ _)
  · have hpulled := hcounted.emit (.driveIo false)
    rw [emit_driveIo] at hpulled
    exact hpulled.withLine _

theorem rxGoodByte_reports (b : Byte) : Reports s (rxGoodByte b s) := by
  have hcleared : Reports s (s.withSeq { s.seq with retryCnt := 0 }) := (Reports.refl s).withSeq _
  unfold rxGoodByte
  dsimp only
  split
  · exact hcleared.trans (firstByte_reports _ b)
  · split
    · exact hcleared.trans (ppsCollect_reports _ b)
    · exact hcleared.emit _

theorem rxb_reports (perr : Bool) (b : Byte) : Reports s (rxb perr b s) := by
  have hrestarted : Reports s (emit .resetWt s) := (Reports.refl s).emit _
  unfold rxb
  dsimp only
  split
  · split
    · exact hrestarted.trans (rxParityError_reports _)
    · exact hrestarted.trans (rxGoodByte_reports _ b)
  · exact (Reports.refl s).withErr _

/-! ### TXRDY (R133, R136, R164, R165, R186, R187) -/

theorem restartIfArmed_reports : Reports s (restartIfArmed s) := by
  unfold restartIfArmed
  split
  · exact (Reports.refl s).emit _
  · exact Reports.refl s

theorem send_reports (b : Byte) : Reports s (send b s) :=
  (((Reports.refl s).withSeq _).emit _).trans (restartIfArmed_reports _)

theorem txNack_reports : Reports s (txNack s) := by
  have hcounted : Reports s (failureCounted s) := (Reports.refl s).withSeq _
  rw [txNack_eq]
  split
  · rw [← halt_eq]
    exact (hcounted.trans (halt_reports _ _)).returns 11
  · exact ((hcounted.emit _).trans (restartIfArmed_reports _)).returns 0

theorem txFromQueue_reports : Reports s (txFromQueue s) := by
  unfold txFromQueue
  split
  · exact (((Reports.refl s).withTxq _).trans (send_reports _ _)).returns _
  · exact (((Reports.refl s).withSeq _).emit _).returns _

theorem txFromPps_reports : Reports s (txFromPps s) := by
  unfold txFromPps
  split
  · split
    · exact (((Reports.refl s).withPps _).trans (send_reports _ _)).returns _
    · split
      · exact (ppsComplete_reports s).trans (txFromQueue_reports _)
      · exact txFromQueue_reports s
  · exact txFromQueue_reports s

theorem txFromAtr_reports : Reports s (txFromAtr s) := by
  unfold txFromAtr
  split
  · split
    · exact (((Reports.refl s).withAtr _).trans (send_reports _ _)).returns _
    · exact (atrComplete_reports s).trans (txFromPps_reports _)
  · exact txFromPps_reports s

theorem txrdy_reports (n : Bool) : Reports s (txrdy n s) := by
  have hacked : Reports s (acknowledged s) := (Reports.refl s).withSeq _
  unfold txrdy
  split
  · exact (Reports.refl s).returns _
  · split
    · exact (Reports.refl s).returns _
    · split
      · exact txNack_reports s
      · rw [txAck_eq]
        exact hacked.trans (txFromAtr_reports _)

/-! ### The timers and the etu tick (R200, R230 to R236) -/

theorem wthalf_reports : Reports s (wthalf s) := by
  unfold wthalf
  split
  · exact ((Reports.refl s).withWt _).emit _
  · exact (Reports.refl s).withErr _

theorem wtexp_reports : Reports s (wtexp s) := by
  unfold wtexp
  split
  · exact ((Reports.refl s).withWt _).trans (halt_reports _ _)
  · split
    · exact Reports.refl s
    · exact (Reports.refl s).withErr _

theorem gviol_reports : Reports s (gviol s) := by
  unfold gviol
  split
  · exact halt_reports s _
  · exact (Reports.refl s).withErr _

theorem tickStart_reports : Reports s (tickStart s) :=
  ⟨rfl, _, rfl, Or.inl rfl⟩

theorem framerRxBit_reports (lvl : Bool) : Reports s (framerRxBit lvl s) := by
  unfold framerRxBit
  dsimp only
  split
  · exact ((Reports.refl s).withFr _).trans (rxb_reports _ _ _)
  · exact (Reports.refl s).withFr _

theorem framerRxGuard_reports (lvl drv : Bool) : Reports s (framerRxGuard lvl drv s) := by
  have hmoved : Reports s (if s.fr.slot = 11 then s.withFr { s.fr with mode := .idle, slot := 0 }
      else s.withFr { s.fr with slot := 11 }) := by
    split <;> exact (Reports.refl s).withFr _
  unfold framerRxGuard
  dsimp only
  split
  · exact hmoved.trans (gviol_reports _)
  · exact hmoved

theorem framerStep_reports (lvl drv : Bool) : Reports s (framerStep lvl drv s) := by
  unfold framerStep
  split
  · exact (Reports.refl s).withFr _
  · unfold framerRx
    split
    · exact framerRxBit_reports s lvl
    · exact framerRxGuard_reports s lvl drv
  · unfold framerIdle
    split
    · exact (Reports.refl s).withFr _
    · exact Reports.refl s

theorem txNotify_reports : Reports s (txNotify s) := by
  unfold txNotify
  split
  · exact ((Reports.refl s).withFr _).trans (txrdy_reports _ _)
  · exact Reports.refl s

theorem txLoad_reports : Reports s (txLoad s) := by
  unfold txLoad
  split
  · exact (Reports.refl s).withFr _
  · exact Reports.refl s

theorem wtHalfStep_reports : Reports s (wtHalfStep s) := by
  unfold wtHalfStep
  split
  · exact wthalf_reports s
  · exact Reports.refl s

theorem wtFullStep_reports : Reports s (wtFullStep s) := by
  unfold wtFullStep
  split
  · exact wtexp_reports s
  · exact Reports.refl s

theorem wtStep_reports : Reports s (wtStep s) := by
  have hcounted : Reports s (s.withWt (wtCount s.wt)) := (Reports.refl s).withWt _
  unfold wtStep
  split
  · exact (hcounted.trans (wtHalfStep_reports _)).trans (wtFullStep_reports _)
  · exact Reports.refl s

theorem etu_reports (rdr : Bool) : Reports s (etu rdr s) := by
  unfold etu
  split
  · unfold etuSteps
    rw [tickStart_eq]
    exact ((((tickStart_reports s).trans (framerStep_reports _ _ _)).trans (txNotify_reports _)).trans
      (txLoad_reports _)).trans (wtStep_reports _)
  · exact Reports.refl s

/-! ### Every event -/

theorem afterVcc_reports (old a : Bool) : Reports s (afterVcc old a s) := by
  unfold afterVcc
  split
  · split
    · exact resetEvent_reports s
    · exact Reports.refl s
  · split
    · exact powerOff_reports s
    · exact Reports.refl s

theorem afterRst_reports (old a : Bool) : Reports s (afterRst old a s) := by
  unfold afterRst
  split
  · split
    · exact resetEvent_reports s
    · exact Reports.refl s
  · split
    · split
      · split
        · exact startDelivery_reports s
        · exact halt_reports s _
      · exact Reports.refl s
    · exact Reports.refl s

theorem setAtr_reports (bytes : List Byte) : Reports s (setAtr bytes s) := by
  unfold setAtr
  split
  · exact (Reports.refl s).returns _
  · split
    · exact (Reports.refl s).returns _
    · split
      · exact ((Reports.refl s).withPatr _).returns _
      · exact (((Reports.refl s).withAtr _).withPatr _).returns _

theorem txqApp_reports (bytes : List Byte) : Reports s (txqApp bytes s) := by
  unfold txqApp
  split
  · exact (Reports.refl s).returns _
  · split
    · exact (Reports.refl s).returns _
    · exact ((Reports.refl s).withTxq _).returns _

/-- Every event on a created handle reports the phase it leads to. -/
theorem eventResult_reports (i : Instr) : Reports s (eventResult i s) := by
  have hlatched : Reports s (latched i s) := (Reports.refl s).withLines _
  cases i with
  | init slot tc uart inep irqep => exact ((Reports.refl s).withErr _).returns _
  | iochgVcc a => exact hlatched.trans (afterVcc_reports _ _ a)
  | iochgRst a => exact hlatched.trans (afterRst_reports _ _ a)
  | iochgClk a => exact hlatched
  | rxb perr b => exact rxb_reports s perr b
  | txrdy n => exact txrdy_reports s n
  | wthalf => exact wthalf_reports s
  | wtexp => exact wtexp_reports s
  | setatr bytes => exact setAtr_reports s bytes
  | txqapp bytes => exact txqApp_reports s bytes
  | gettxq => exact (Reports.refl s).returns _
  | newtx => exact kick_reports s
  | repstat => exact (Reports.refl s).emit _
  | etu rdr => exact etu_reports s rdr
  | gviol => exact gviol_reports s

end

/-- Settles O54: every event reports, and where the phase has changed that means a record of the new one. -/
theorem phaseChangeIsReported : Obligations.PhaseChangeIsReported := by
  unfold Obligations.PhaseChangeIsReported
  intro i s t hi ht hne
  rw [eq_eventResult hi ht] at hne ⊢
  obtain ⟨-, ws, hws, hrep⟩ := eventResult_reports s i
  obtain ⟨u, before, after, hp, hid, rfl⟩ := hrep.resolve_left hne
  exact ⟨u, before, after, hp, hid, by rw [hws]; simp⟩

end Sys2Proof.Proofs
end

section
/-! PROOFS. The rows of the transition table that the core events `RXB`, `TXRDY` and `GVIOL` take, and what they do
to the waiting time beside it (41_protocol_fsm.md R130 to R136, 43_pps_and_fd.md R184 to R187, 45_timers.md R231,
R232). -/

namespace Sys2Proof.Proofs

open Sys2Proof Sys2Proof.Machine

variable {s t u : State} {e : Instr}

/-! ### Rows (R130) -/

/-- The events and conditions that lead from an exchange phase to the halt. -/
def HaltRow (i : Instr) (s : State) : Prop :=
  ((∃ b, i = .rxb true b) ∧ Receives s ∧ budgetUsedUp s) ∨
    (i = .txrdy true ∧ s.seq.txActive = true ∧ s.seq.txLastValid = true ∧ budgetUsedUp s) ∨
    (s.phase = .ppsNegotiation ∧ s.pps.respLen = 0 ∧ ∃ b, i = .rxb false b ∧ ppsFails b s) ∨
    (i = .wtexp ∧ s.wt.ticks ≠ 0) ∨ i = .gviol

theorem transitionRow_halt (hx : exchangePhase s.phase = true) (h : HaltRow e s) :
    transitionRow e s .errorHalt := by
  revert h
  unfold HaltRow transitionRow
  cases hp : s.phase with
  | atrDelivery | ppsNegotiation | tpduExchange => exact id
  | poweredOff | resetAsserted | errorHalt => rw [hp] at hx; cases hx

theorem transitionRow_reset {i : Instr} :
    transitionRow i s .resetAsserted ↔
      (i = .iochgRst true ∧ s.lines.rst = false ∧ s.lines.vcc = true) ∨
        (i = .iochgVcc true ∧ s.lines.vcc = false ∧ s.lines.rst = true) := by
  unfold transitionRow
  cases s.phase <;> exact Iff.rfl

theorem transitionRow_powerOff {i : Instr} :
    transitionRow i s .poweredOff ↔ i = .iochgVcc false ∧ s.lines.vcc = true := by
  unfold transitionRow
  cases s.phase <;> exact Iff.rfl

/-- The registers that the rows out of the exchange phases look at. -/
structure SameRows (s u : State) : Prop where
  phase : u.phase = s.phase
  lines : u.lines = s.lines
  atr : u.atr = s.atr
  wt : u.wt = s.wt
  pps : u.pps = s.pps
  seq : u.seq = s.seq
  config : u.config = s.config

theorem transitionRow_of_sameRows {p : Phase} (hx : exchangePhase s.phase = true) (h : SameRows s u)
    (hrow : transitionRow e u p) : transitionRow e s p := by
  revert hrow
  unfold transitionRow Receives budgetUsedUp ppsFails
  rw [h.phase, h.lines, h.atr, h.wt, h.pps, h.seq, h.config]
  cases hp : s.phase with
  | atrDelivery | ppsNegotiation | tpduExchange => cases p <;> exact id
  | poweredOff | resetAsserted | errorHalt => rw [hp] at hx; cases hx

/-- What the event `e`, leading from `s` to `t`, does to the phase and to the waiting time. A phase entered by a
row finds the waiting time restarted, armed anew or stopped, so that no second change can follow by expiry. -/
inductive Follows (e : Instr) (s t : State) : Prop
  | kept (hp : t.phase = s.phase) (hw : t.wt = s.wt)
  | restarted (hp : t.phase = s.phase) (hr : Restarted t)
  | moved (hrow : transitionRow e s t.phase) (hr : Restarted t)

theorem Follows.row (h : Follows e s t) : t.phase = s.phase ∨ transitionRow e s t.phase := by
  cases h with
  | kept hp => exact Or.inl hp
  | restarted hp => exact Or.inl hp
  | moved hrow => exact Or.inr hrow

/-- A phase kept on the way. -/
theorem Follows.of_phase (hp : t.phase = s.phase) (hw : t.wt = s.wt ∨ Restarted t) : Follows e s t :=
  hw.elim (.kept hp) (.restarted hp)

theorem restarted_of_cnt (h : t.wt.cnt = 0) : Restarted t := fun _ => h

theorem afterHalt_restarted (c : ErrCause) (s : State) : Restarted (afterHalt c s) := restarted_of_cnt rfl

/-- The way to the halt from an exchange phase. -/
theorem Follows.halts (c : ErrCause) (hx : exchangePhase s.phase = true) (h : HaltRow e s) :
    Follows e s (afterHalt c u) :=
  .moved (transitionRow_halt hx h) (afterHalt_restarted c u)

/-! ### The PPS request (R184, R185) -/

theorem ppsMalformed_eq (p : PpsRegs) : ppsMalformed p = ppsBad p := by
  unfold ppsMalformed ppsBad xorReduce rdBuf
  rw [BitVec.setWidth_eq_extractLsb' (by decide)]

theorem ppsProposal_eq (c : Config) (p : PpsRegs) : ppsProposal c p = (ppsFi c p, ppsDi c p) := by
  unfold ppsProposal ppsFi ppsDi rdBuf
  rw [BitVec.setWidth_eq_extractLsb' (by decide)]
  split <;> rfl

theorem fdSupported_eq (c : Config) (fi di : BitVec 4) : fdSupported c fi di = !fdRefused c fi di := by
  rw [Bool.eq_iff_iff, fdSupported_iff]
  simp [fdRefused]

/-- The evaluation of a complete request. -/
theorem ppsEval_eq (s : State) : ppsEval s = afterPpsEval s := by
  have haccept : ∀ fi di, ppsAccept fi di s = afterPpsAccept fi di s := fun fi di => startTransmit_eq _
  unfold ppsEval afterPpsEval
  dsimp only
  rw [ppsMalformed_eq, ppsProposal_eq, fdSupported_eq, haccept, halt_eq, halt_eq]
  split
  · rfl
  · cases fdRefused s.config (ppsFi s.config s.pps) (ppsDi s.config s.pps) <;> rfl

/-- The collection of a byte. -/
theorem ppsCollect_eq (b : Byte) (s : State) :
    ppsCollect b s =
      if ppsRequestComplete (ppsRequestWith b s.pps) = true then
        afterPpsEval { s with pps := ppsRequestWith b s.pps }
      else { s with pps := ppsRequestWith b s.pps } := by
  unfold ppsCollect ppsRequestComplete
  dsimp only
  rw [ppsAppend_eq, ppsEval_eq]
  simp only [State.withPps_pps, Bool.and_eq_true, decide_eq_true_eq, beq_iff_eq]
  rfl

/-- An evaluation halts by the row of a request that fails, or keeps phase and waiting time. -/
theorem afterPpsEval_cases (s : State) :
    (∃ c, afterPpsEval s = afterHalt c s ∧
        (ppsBad s.pps = true ∨
          fdRefused s.config (ppsFi s.config s.pps) (ppsDi s.config s.pps) = true)) ∨
      ((afterPpsEval s).phase = s.phase ∧ (afterPpsEval s).wt = s.wt) := by
  unfold afterPpsEval
  dsimp only
  split
  · next hbad => exact Or.inl ⟨_, rfl, Or.inl hbad⟩
  · split
    · next hrefused => exact Or.inl ⟨_, rfl, Or.inr hrefused⟩
    · exact Or.inr ⟨rfl, rfl⟩

/-! ### RXB -/

theorem afterKick_frame (s : State) : (afterKick s).phase = s.phase ∧ (afterKick s).wt = s.wt := by
  unfold afterKick
  split <;> exact ⟨rfl, rfl⟩

/-- A byte of the PPS request. -/
theorem ppsCollect_follows (b : Byte) (hp : s.phase = .ppsNegotiation) (hr : s.pps.respLen = 0) :
    Follows (.rxb false b) s (ppsCollect b (afterRxGood s)) := by
  have hx : exchangePhase s.phase = true := by rw [hp]; rfl
  rw [ppsCollect_eq]
  split
  · next hcomplete =>
    rcases afterPpsEval_cases { afterRxGood s with pps := ppsRequestWith b s.pps } with
      ⟨c, hhalt, hfails⟩ | ⟨hphase, hwt⟩
    · have hrow : HaltRow (.rxb false b) s := Or.inr (Or.inr (Or.inl ⟨hp, hr, b, rfl, hcomplete, hfails⟩))
      exact hhalt ▸ Follows.halts c hx hrow
    · exact .restarted hphase (restarted_of_cnt (by exact congrArg (·.cnt) hwt))
  · exact .restarted rfl (restarted_of_cnt rfl)

/-- The first byte after an ATR that offers PPS. -/
theorem firstByte_follows (h : Inv s) (b : Byte) (hp : s.phase = .atrDelivery) (hd : s.atr.done = true) :
    Follows (.rxb false b) s (firstByte b (afterRxGood s)) := by
  have hcap : s.atr.ppsCapable = true := h.documented.ppsOffered (Or.inr ⟨hp, hd⟩)
  rw [firstByte_eq]
  split
  · next hff =>
    refine .moved ?_ (restarted_of_cnt rfl)
    show transitionRow _ s .ppsNegotiation
    unfold transitionRow
    rw [hp, hff]
    exact ⟨rfl, hd, hcap⟩
  · next hcmd =>
    obtain ⟨hphase, hwt⟩ := afterKick_frame
      ((enterPhase .tpduExchange (afterRxGood s)).emits [rxDeliverWord (afterRxGood s).ident b])
    refine .moved ?_ (restarted_of_cnt (by exact congrArg (·.cnt) hwt))
    show transitionRow _ s (afterKick _).phase
    rw [hphase]
    show transitionRow _ s .tpduExchange
    unfold transitionRow
    rw [hp]
    exact Or.inr ⟨⟨b, hcmd, rfl⟩, hd, hcap⟩

theorem rxb_follows (h : Inv s) (perr : Bool) (b : Byte) : Follows (.rxb perr b) s (rxb perr b s) := by
  by_cases hrec : Receives s
  · cases perr with
    | true =>
      rw [rxb_of_receives _ _ hrec, if_pos rfl, rxParityError_eq]
      split
      · next hbudget => exact .halts _ hrec.exchange (Or.inl ⟨⟨b, rfl⟩, hrec, hbudget⟩)
      · exact .restarted rfl (restarted_of_cnt rfl)
    | false =>
      rcases hrec with ⟨hp, hd⟩ | ⟨hp, hr⟩ | hp
      · rw [rxb_good_delivery b hp hd]
        exact firstByte_follows h b hp hd
      · rw [rxb_good_pps b hp hr]
        exact ppsCollect_follows b hp hr
      · rw [rxb_good_exchange b hp]
        exact .restarted rfl (restarted_of_cnt rfl)
  · rw [rxb_of_not_receives _ _ hrec]
    exact .kept rfl rfl

/-! ### TXRDY -/

theorem restartIfArmed_restarted (s : State) : Restarted (restartIfArmed s) := by
  rw [restartIfArmed_eq]
  split
  · next h0 => exact fun h => absurd h0 h
  · exact restarted_of_cnt rfl

theorem restartIfArmed_phase (s : State) : (restartIfArmed s).phase = s.phase := by
  rw [restartIfArmed_eq]
  split <;> rfl

theorem afterSend_returns_restarted (b : Byte) (v : BitVec 8) (s : State) :
    Restarted ((afterSend b s).returns v) :=
  afterSend_restarted b s

/-- A look at the queue keeps the phase, and the waiting time but for a restart. -/
theorem txFromQueue_keeps (s : State) :
    (txFromQueue s).phase = s.phase ∧ ((txFromQueue s).wt = s.wt ∨ Restarted (txFromQueue s)) := by
  by_cases hc : s.phase = .tpduExchange ∧ s.txq.frames ≠ []
  · obtain ⟨hp, hq⟩ := hc
    rw [txFromQueue_send hp hq]
    exact ⟨rfl, Or.inr (afterSend_returns_restarted _ _ _)⟩
  · unfold txFromQueue
    rw [if_neg hc, txIdle_eq]
    exact ⟨rfl, Or.inl rfl⟩

/-- After a waiting time armed in the same event the look at the queue leaves it restarted. -/
theorem txFromQueue_restarted (h : s.wt.cnt = 0) : Restarted (txFromQueue s) := by
  rcases (txFromQueue_keeps s).2 with hw | hr
  · exact restarted_of_cnt (by rw [hw]; exact h)
  · exact hr

/-- The event is a `TXRDY` that is no rejection: it gets past the third step of R133. -/
def Searches (e : Instr) (s : State) : Prop := ∃ n, e = .txrdy n ∧ (s.seq.txLastValid && n) = false

/-- The second source: the last byte of the response ends the PPS. -/
theorem txFromPps_follows (h : Inv s) (hs : Searches e s) : Follows e s (txFromPps (acknowledged s)) := by
  have hqueue : Follows e s (txFromQueue (acknowledged s)) :=
    have hkeeps := txFromQueue_keeps (acknowledged s)
    .of_phase hkeeps.1 hkeeps.2
  unfold txFromPps
  split
  · next hp =>
    split
    · rw [send_eq, retStatus_eq]
      exact .restarted rfl (afterSend_returns_restarted _ _ _)
    · next hsent =>
      split
      · next howed =>
        have hlast : s.pps.respIdx = s.pps.respLen :=
          BitVec.eq_of_toNat_eq (Nat.le_antisymm h.bounded.ppsLens.2.2 (Nat.le_of_not_lt hsent))
        rw [ppsComplete_eq]
        have hend : (ppsEnded (acknowledged s)).phase = .tpduExchange := rfl
        refine .moved ?_ (txFromQueue_restarted rfl)
        rw [txFromQueue_phase hend]
        have hp : s.phase = .ppsNegotiation := hp
        unfold transitionRow
        rw [hp]
        exact ⟨hs, howed, hlast⟩
      · exact hqueue
  · exact hqueue

/-- The first source: the last byte of the ATR ends the delivery, and the phase too unless PPS is offered. -/
theorem txFromAtr_follows (h : Inv s) (hs : Searches e s) : Follows e s (txFromAtr (acknowledged s)) := by
  unfold txFromAtr
  split
  · next hmid =>
    have hmid : midDelivery s = true := hmid
    have hp := phase_of_midDelivery hmid
    split
    · rw [send_eq, retStatus_eq]
      exact .restarted rfl (afterSend_returns_restarted _ _ _)
    · next hsent =>
      have hlast : s.atr.idx = s.atr.len :=
        BitVec.eq_of_toNat_eq (Nat.le_antisymm (h.documented.deliveryIdx hmid) (Nat.le_of_not_lt hsent))
      have hdone : s.atr.done = false := by
        simp only [midDelivery, Bool.and_eq_true, Bool.not_eq_true'] at hmid
        exact hmid.2
      have hq : txFromPps (atrComplete (acknowledged s)) = txFromQueue (atrComplete (acknowledged s)) := by
        unfold txFromPps
        rw [if_neg (atrComplete_phase (s := acknowledged s) hmid)]
      obtain ⟨hkept, -⟩ := txFromQueue_keeps (atrEnded (acknowledged s))
      rw [hq, atrComplete_eq]
      cases hcap : s.atr.ppsCapable with
      | true =>
        have hend : atrEnded (acknowledged s) =
            waitArmed { acknowledged s with atr := { s.atr with done := true } } := if_pos hcap
        refine .restarted (hkept.trans (by rw [hend]; rfl)) (txFromQueue_restarted ?_)
        rw [hend]
        rfl
      | false =>
        have hend : atrEnded (acknowledged s) =
            enterPhase .tpduExchange
              (waitArmed { acknowledged s with atr := { s.atr with done := true } }) :=
          if_neg (by simp [acknowledged, hcap])
        refine .moved ?_ (txFromQueue_restarted (by rw [hend]; rfl))
        rw [hkept, hend]
        show transitionRow _ s .tpduExchange
        unfold transitionRow
        rw [hp]
        exact Or.inl ⟨hs, hdone, hlast, hcap⟩
  · exact txFromPps_follows h hs

theorem txrdy_follows (h : Inv s) (n : Bool) : Follows (.txrdy n) s (txrdy n s) := by
  cases hx : exchangePhase s.phase with
  | false =>
    rw [txrdy_of_no_exchange n hx]
    exact .kept rfl rfl
  | true =>
    cases ha : s.seq.txActive with
    | false =>
      rw [txrdy_of_inactive n hx ha]
      exact .kept rfl rfl
    | true =>
      cases hn : s.seq.txLastValid && n with
      | false =>
        rw [txrdy_search n s hx ha hn, txAck_eq]
        exact txFromAtr_follows h ⟨n, rfl, hn⟩
      | true =>
        obtain ⟨hv, rfl⟩ : s.seq.txLastValid = true ∧ n = true := by simpa using hn
        rw [txrdy_of_rejection hx ha hn, txNack_eq]
        split
        · next hbudget =>
          exact .moved (transitionRow_halt hx (Or.inr (Or.inl ⟨rfl, ha, hv, hbudget⟩)))
            (restarted_of_cnt rfl)
        · exact .restarted (restartIfArmed_phase _) (restartIfArmed_restarted _)

/-! ### GVIOL -/

theorem gviol_follows (s : State) : Follows .gviol s (gviol s) := by
  unfold gviol
  split
  · next hx =>
    rw [halt_eq]
    exact .halts _ hx (Or.inr (Or.inr (Or.inr (Or.inr rfl))))
  · exact .kept rfl rfl

end Sys2Proof.Proofs
end

section
/-! PROOFS. The phase along every event: the signal monitor, the core events, and the `ETU` that performs one of
them (41_protocol_fsm.md R130, R131, 44_framer.md R200 to R208, R213, 45_timers.md R236). -/

namespace Sys2Proof.Proofs

open Sys2Proof Sys2Proof.Machine

variable {s t u : State}

/-! ### The core event that an ETU performs -/

/-- What an `ETU` has done to phase and waiting time up to some step of it. -/
inductive TickFollows (rdr : Bool) (s t : State) : Prop
  | kept (hp : t.phase = s.phase) (hw : t.wt = s.wt)
  | restarted (hp : t.phase = s.phase) (hr : Restarted t)
  | moved (e : Instr) (he : performedByEtu rdr s e) (hrow : transitionRow e s t.phase) (hr : Restarted t)

/-- A core event performed in the tick, on registers that the rows see as those of `s`. -/
theorem Follows.inTick {rdr : Bool} {e : Instr} (hx : exchangePhase s.phase = true) (hsame : SameRows s u)
    (he : performedByEtu rdr s e) (h : Follows e u t) : TickFollows rdr s t := by
  cases h with
  | kept hp hw => exact .kept (hp.trans hsame.phase) (hw.trans hsame.wt)
  | restarted hp hr => exact .restarted (hp.trans hsame.phase) hr
  | moved hrow hr => exact .moved e he (transitionRow_of_sameRows hx hsame hrow) hr

theorem tickStart_withFr_sameRows (s : State) (f : FramerRegs) : SameRows s ((tickStart s).withFr f) :=
  ⟨rfl, rfl, rfl, rfl, rfl, rfl, rfl⟩

/-! ### The framer (R204 to R206) -/

/-- While the engine sends no character, it drives the line by `IO_DRV` alone (R201). -/
theorem ioIn_of_not_tx (rdr : Bool) (hm : s.fr.mode ≠ .tx) : ioIn rdr s = (rdr && s.line.ioDrv) := by
  have hsilent : ¬ (s.fr.mode = .tx ∧ s.fr.slot.toNat ≤ 9) := fun h => hm h.1
  unfold ioIn ioOut
  rw [if_neg hsilent]
  cases s.line.ioDrv <;> rfl

/-- The bits of a received character: the last one performs `RXB`. -/
theorem framerRxBit_follows (h : Inv s) (hc : s.lines.clk = true) (rdr : Bool) (hm : s.fr.mode = .rx) :
    TickFollows rdr s (framerRxBit (ioIn rdr s) (tickStart s)) := by
  have hx : exchangePhase s.phase = true := h.mode_exchange (by simp [hm])
  unfold framerRxBit
  dsimp only
  split
  · next hslot =>
    have hslot : s.fr.slot = 9 := hslot
    refine (rxb_follows ?inv _ _).inTick hx (tickStart_withFr_sameRows s _)
      ⟨hc, Or.inl ⟨hm, hslot, ?event⟩⟩
    case inv => exact (tickStart_inv h).withFramer hx _ (fun hv => hv) (by simp [hm])
    case event =>
      rw [tickStart_slot, hslot, ioIn_of_not_tx rdr (by simp [hm])]
      rfl
  · exact .kept rfl rfl

/-- A guard slot passed: slot 11 ends the character. -/
def guardSlotPassed (s : State) : State :=
  if s.fr.slot = 11 then s.withFr { s.fr with mode := .idle, slot := 0 }
  else s.withFr { s.fr with slot := 11 }

theorem framerRxGuard_eq (lvl drv : Bool) (s : State) :
    framerRxGuard lvl drv s =
      if lvl = false ∧ drv = true then gviol (guardSlotPassed s) else guardSlotPassed s := rfl

theorem guardSlotPassed_sameRows (s : State) : SameRows s (guardSlotPassed (tickStart s)) := by
  unfold guardSlotPassed
  split <;> exact tickStart_withFr_sameRows s _

/-- The guard slots of a received character: a low line performs `GVIOL`. -/
theorem framerRxGuard_follows (h : Inv s) (hc : s.lines.clk = true) (rdr : Bool) (hm : s.fr.mode = .rx)
    (hlate : ¬ s.fr.slot.toNat ≤ 9) :
    TickFollows rdr s (framerRxGuard (ioIn rdr s) s.line.ioDrv (tickStart s)) := by
  have hx : exchangePhase s.phase = true := h.mode_exchange (by simp [hm])
  have hpassed := guardSlotPassed_sameRows s
  rw [framerRxGuard_eq]
  split
  · next hviol =>
    obtain ⟨hlow, hdrv⟩ := hviol
    have hrdr : rdr = false := by
      rw [ioIn_of_not_tx rdr (by simp [hm]), hdrv, Bool.and_true] at hlow
      exact hlow
    have hslot : s.fr.slot = 10 ∨ s.fr.slot = 11 := by
      have hbounds := h.bounded.slots
      rw [hm] at hbounds
      obtain ⟨-, hmost⟩ := hbounds
      rcases (by omega : s.fr.slot.toNat = 10 ∨ s.fr.slot.toNat = 11) with hn | hn
      · exact Or.inl (BitVec.eq_of_toNat_eq hn)
      · exact Or.inr (BitVec.eq_of_toNat_eq hn)
    exact (gviol_follows _).inTick hx hpassed ⟨hc, Or.inr (Or.inl ⟨hm, hslot, hrdr, hdrv, rfl⟩)⟩
  · exact .kept hpassed.phase hpassed.wt

theorem framerStep_follows (h : Inv s) (hc : s.lines.clk = true) (rdr : Bool) :
    TickFollows rdr s (framerStep (ioIn rdr s) s.line.ioDrv (tickStart s)) := by
  unfold framerStep
  rw [tickStart_mode]
  cases hm : s.fr.mode with
  | tx => exact .kept rfl rfl
  | idle =>
    dsimp only
    unfold framerIdle
    split <;> exact .kept rfl rfl
  | rx =>
    dsimp only
    unfold framerRx
    rw [tickStart_slot]
    split
    · exact framerRxBit_follows h hc rdr hm
    · next hlate => exact framerRxGuard_follows h hc rdr hm hlate

/-! ### The notification owed (R207) -/

/-- What the framer leaves when the transmitter is free after it: the registers the rows look at, the error flag,
and the reason why a notification is owed, if one is. -/
structure FreeAfterFramer (s g : State) : Prop where
  same : SameRows s g
  dir : g.line.dir = s.line.dir
  holdoff : g.fr.holdoff = holdoffTick s.fr.holdoff
  nackSeen : g.fr.nackSeen = s.fr.nackSeen
  owed : g.fr.txrdyPend = true →
    (s.fr.txrdyPend = true ∧ (s.fr.mode = .idle ∨ (s.fr.mode = .rx ∧ s.fr.slot = 11))) ∨
      (s.fr.mode = .tx ∧ 11 + s.config.extraGuardN + s.fr.nackSeen.toNat ≤ s.fr.slot.toNat)

/-- The last slot of a transmitted character and its guard time lies after slot 10, so that its error flag has
been sampled before. -/
theorem framerTx_free (lvl : Bool) (hm : s.fr.mode = .tx)
    (hserv : txServable (framerTx lvl (tickStart s)) = true) :
    FreeAfterFramer s (framerTx lvl (tickStart s)) := by
  have hsame := tickStart_withFr_sameRows s
    (framerTxRegs (tickStart s).config lvl (tickStart s).fr)
  revert hserv
  unfold framerTx
  intro hserv
  by_cases hlast : 11 + s.config.extraGuardN + (nackSample lvl s.fr).toNat ≤ s.fr.slot.toNat
  · have hsampled : nackSample lvl s.fr = s.fr.nackSeen := by
      have hne : s.fr.slot ≠ 10 := by
        intro hten
        rw [hten] at hlast
        simp at hlast
        omega
      exact if_neg hne
    have hdone : framerTxRegs (tickStart s).config lvl (tickStart s).fr =
        { (tickStart s).fr with
          nackSeen := nackSample lvl s.fr, mode := .idle, slot := 0, txrdyPend := true } := if_pos hlast
    rw [hdone] at hsame ⊢
    exact ⟨hsame, tickStart_dir s, rfl, hsampled, fun _ => Or.inr ⟨hm, hsampled ▸ hlast⟩⟩
  · have hmore : framerTxRegs (tickStart s).config lvl (tickStart s).fr =
        { (tickStart s).fr with nackSeen := nackSample lvl s.fr, slot := s.fr.slot + 1 } := if_neg hlast
    rw [hmore, busy_of_mode (by simp [hm])] at hserv
    cases hserv

/-- With the line turned to transmit an idle framer looks for no start bit. -/
theorem framerIdle_free (lvl drv : Bool) (hm : s.fr.mode = .idle)
    (hserv : txServable (framerIdle lvl drv (tickStart s)) = true) :
    FreeAfterFramer s (framerIdle lvl drv (tickStart s)) := by
  revert hserv
  unfold framerIdle
  split
  · intro hserv
    rw [busy_of_mode (by simp)] at hserv
    cases hserv
  · exact fun _ => ⟨⟨rfl, rfl, rfl, rfl, rfl, rfl, rfl⟩, tickStart_dir s, rfl, rfl,
      fun hpend => Or.inl ⟨hpend, Or.inl hm⟩⟩

/-- A guard violation in an exchange phase leaves nothing to serve. -/
theorem gviol_busy (hx : exchangePhase s.phase = true) : txServable (gviol s) = false := by
  unfold gviol
  rw [if_pos hx]
  exact halt_busy _ _

/-- After a received character the transmitter is free once its last guard slot has passed in silence. -/
theorem framerRxGuard_free (h : Inv s) (lvl drv : Bool) (hm : s.fr.mode = .rx)
    (hserv : txServable (framerRxGuard lvl drv (tickStart s)) = true) :
    FreeAfterFramer s (framerRxGuard lvl drv (tickStart s)) := by
  have hx : exchangePhase s.phase = true := h.mode_exchange (by simp [hm])
  have hpassed := guardSlotPassed_sameRows s
  revert hserv
  rw [framerRxGuard_eq]
  split
  · rw [gviol_busy (hpassed.phase ▸ hx)]
    intro hserv
    cases hserv
  · by_cases hslot : s.fr.slot = 11
    · have hended : guardSlotPassed (tickStart s) =
          (tickStart s).withFr { (tickStart s).fr with mode := .idle, slot := 0 } := if_pos hslot
      rw [hended] at hpassed ⊢
      exact fun _ => ⟨hpassed, tickStart_dir s, rfl, rfl, fun hpend => Or.inl ⟨hpend, Or.inr ⟨hm, hslot⟩⟩⟩
    · have hwaiting : guardSlotPassed (tickStart s) =
          (tickStart s).withFr { (tickStart s).fr with slot := 11 } := if_neg hslot
      rw [hwaiting, busy_of_mode (by simp [hm])]
      intro hserv
      cases hserv

theorem framerStep_free (h : Inv s) (lvl drv : Bool)
    (hserv : txServable (framerStep lvl drv (tickStart s)) = true) :
    FreeAfterFramer s (framerStep lvl drv (tickStart s)) := by
  revert hserv
  unfold framerStep
  rw [tickStart_mode]
  cases hm : s.fr.mode with
  | tx => exact framerTx_free lvl hm
  | idle => exact framerIdle_free lvl drv hm
  | rx =>
    dsimp only
    unfold framerRx
    split
    · intro hserv
      rw [framerRxBit_busy (by simp [hm])] at hserv
      cases hserv
    · exact framerRxGuard_free h lvl drv hm

/-- A transmitter that can be served is enabled alone (R40 f). -/
theorem dir_of_servable (h : Inv s) (hserv : txServable s = true) : s.line.dir = 2 := by
  have hdir := h.documented.direction
  rw [if_pos (h.servable_exchange hserv)] at hdir
  have htx : s.line.dir.getLsbD 1 = true := by
    simp only [txServable, Bool.and_eq_true] at hserv
    exact hserv.1.1
  split at hdir
  · exact hdir
  · rw [hdir] at htx
    cases htx

/-- A counter found at 0 after its tick was at most 1 before it (R233). -/
theorem le_one_of_holdoffTick {v : BitVec 8} (h : holdoffTick v = 0) : v.toNat ≤ 1 := by
  unfold holdoffTick at h
  split at h
  · next h0 => rw [h0]; decide
  · rw [sub_eq_zero.1 h]; decide

/-- Step 5, notification: performed when the framer leaves the transmitter free. -/
theorem txNotify_follows (hc : s.lines.clk = true) {rdr : Bool} {g : State} (hg : Inv g)
    (hfree : txServable g = true → FreeAfterFramer s g) (hf : TickFollows rdr s g) :
    TickFollows rdr s (txNotify g) := by
  unfold txNotify
  split
  · next hserved =>
    obtain ⟨hpend, hserv⟩ : g.fr.txrdyPend = true ∧ txServable g = true := by simpa using hserved
    obtain ⟨hsame, hdir, hhold, hnack, howed⟩ := hfree hserv
    have hgx : exchangePhase g.phase = true := hg.servable_exchange hserv
    have hx : exchangePhase s.phase = true := hsame.phase ▸ hgx
    have hzero : g.fr.holdoff = 0 := by
      simp only [txServable, Bool.and_eq_true, beq_iff_eq] at hserv
      exact hserv.2
    have hperformed : performedByEtu rdr s (.txrdy g.fr.nackSeen) :=
      ⟨hc, Or.inr (Or.inr (Or.inl ⟨hdir ▸ dir_of_servable hg hserv,
        le_one_of_holdoffTick (hhold ▸ hzero), by rw [hnack], howed hpend⟩))⟩
    have htold : Inv (g.withFr { g.fr with txrdyPend := false, nackSeen := false }) :=
      hg.withFramer hgx _ (fun hv => hv) hg.bounded.slots
    have htoldSame : SameRows s (g.withFr { g.fr with txrdyPend := false, nackSeen := false }) :=
      ⟨hsame.phase, hsame.lines, hsame.atr, hsame.wt, hsame.pps, hsame.seq, hsame.config⟩
    exact (txrdy_follows htold _).inTick hx htoldSame hperformed
  · exact hf

theorem txLoad_follows {rdr : Bool} (h : TickFollows rdr s t) : TickFollows rdr s (txLoad t) := by
  obtain ⟨hphase, hwt⟩ := txLoad_frame t
  have hr : Restarted t → Restarted (txLoad t) := fun hr => by unfold Restarted; rw [hwt]; exact hr
  cases h with
  | kept hp hw => exact .kept (hphase.trans hp) (hwt.trans hw)
  | restarted hp hres => exact .restarted (hphase.trans hp) (hr hres)
  | moved e he hrow hres => exact .moved e he (hphase ▸ hrow) (hr hres)

/-! ### The expiry (R236) -/

theorem wthalf_phase (s : State) : (wthalf s).phase = s.phase := by
  unfold wthalf
  split <;> rfl

theorem wtHalfStep_phase (s : State) : (wtHalfStep s).phase = s.phase := by
  unfold wtHalfStep
  split
  · exact wthalf_phase s
  · rfl

theorem wtFullStep_phase (s : State) :
    (wtFullStep s).phase = s.phase ∨ (wtFullStep s).phase = .errorHalt := by
  unfold wtFullStep wtexp
  rw [halt_eq]
  split_ifs
  case pos => exact Or.inr rfl
  all_goals exact Or.inl rfl

/-- The waiting time is armed in the exchange phases only (R40 d). -/
theorem exchange_of_armed (h : Inv s) (harmed : s.wt.ticks ≠ 0) : exchangePhase s.phase = true := by
  rcases h.documented.armed.1 harmed with ⟨hp, -⟩ | hp | hp <;> rw [hp] <;> rfl

/-- Expiry has its row. -/
theorem transitionRow_expiry (h : Inv s) (harmed : s.wt.ticks ≠ 0) : transitionRow .wtexp s .errorHalt :=
  transitionRow_halt (exchange_of_armed h harmed) (Or.inr (Or.inr (Or.inr (Or.inl ⟨rfl, harmed⟩))))

/-- Step 6 changes the phase by the expiry only, and then to the halt. -/
theorem waitTick_phase (s : State) :
    (waitTick s).phase = s.phase ∨
      (waitTick s).phase = .errorHalt ∧ s.wt.ticks ≠ 0 ∧ s.wt.ticks.toNat ≤ s.wt.cnt.toNat + 1 := by
  by_cases hno : noExpiry 1 s
  · obtain ⟨-, hphase, -⟩ := waitTick_frame s hno
    exact Or.inl hphase
  · obtain ⟨harmed, hlast⟩ := not_or.1 hno
    have hend : (wtStep s).phase = s.phase ∨ (wtStep s).phase = .errorHalt := by
      have hhalf : (wtHalfStep (s.withWt (wtCount s.wt))).phase = s.phase := wtHalfStep_phase _
      unfold wtStep
      split
      · rw [← hhalf]
        exact wtFullStep_phase _
      · exact Or.inl rfl
    rw [← waitTick_eq]
    exact hend.imp id fun hhalt => ⟨hhalt, harmed, Nat.le_of_not_lt hlast⟩

/-- A whole `ETU`: the phase is unchanged, or moved by the row of an event performed in it. -/
theorem etu_row (h : Inv s) (rdr : Bool) :
    (etu rdr s).phase = s.phase ∨ ∃ e, performedByEtu rdr s e ∧ transitionRow e s (etu rdr s).phase := by
  unfold etu
  split
  · next hc =>
    unfold etuSteps
    rw [tickStart_eq, waitTick_eq]
    have hg := framerStep_inv (tickStart_inv h) (ioIn rdr s) s.line.ioDrv
    have hinv := txLoad_inv (txNotify_inv hg)
    have hbefore := txLoad_follows (txNotify_follows hc hg
      (fun hserv => framerStep_free h (ioIn rdr s) s.line.ioDrv hserv) (framerStep_follows h hc rdr))
    generalize txLoad (txNotify _) = w at hinv hbefore ⊢
    have hrestarted : Restarted w → (waitTick w).phase = w.phase := fun hr =>
      have hframe := waitTick_frame w (noExpiry_of_restarted hinv hr)
      hframe.2.1
    cases hbefore with
    | restarted hp hr => exact Or.inl ((hrestarted hr).trans hp)
    | moved e he hrow hr => exact Or.inr ⟨e, he, (hrestarted hr).symm ▸ hrow⟩
    | kept hp hw =>
      rcases waitTick_phase w with hkept | ⟨hhalt, harmed, hlast⟩
      · exact Or.inl (hkept.trans hp)
      · rw [hw] at harmed hlast
        exact Or.inr ⟨.wtexp, ⟨hc, Or.inr (Or.inr (Or.inr ⟨harmed, hlast, rfl⟩))⟩,
          hhalt.symm ▸ transitionRow_expiry h harmed⟩
  · exact Or.inl rfl

/-! ### The signal monitor (R112, R113) -/

theorem iochgVcc_row (a : Bool) (s : State) :
    (iochgVcc a s).phase = s.phase ∨ transitionRow (.iochgVcc a) s (iochgVcc a s).phase := by
  cases hv : s.lines.vcc <;> cases a
  case false.false => rw [iochgVcc_repeated hv]; exact Or.inl rfl
  case true.true => rw [iochgVcc_repeated hv]; exact Or.inl rfl
  case true.false =>
    rw [iochgVcc_fall hv]
    exact Or.inr (transitionRow_powerOff.2 ⟨rfl, hv⟩)
  case false.true =>
    rw [iochgVcc_rise hv]
    split
    · next hr => exact Or.inr (transitionRow_reset.2 (Or.inr ⟨rfl, hv, hr⟩))
    · exact Or.inl rfl

theorem iochgRst_row (a : Bool) (s : State) :
    (iochgRst a s).phase = s.phase ∨ transitionRow (.iochgRst a) s (iochgRst a s).phase := by
  cases hr : s.lines.rst <;> cases a
  case false.false => rw [iochgRst_repeated hr]; exact Or.inl rfl
  case true.true => rw [iochgRst_repeated hr]; exact Or.inl rfl
  case false.true =>
    rw [iochgRst_asserted hr]
    split
    · next hv => exact Or.inr (transitionRow_reset.2 (Or.inl ⟨rfl, hr, hv⟩))
    · exact Or.inl rfl
  case true.false =>
    rw [iochgRst_released hr]
    split
    · next hheld =>
      obtain ⟨hp, hhold⟩ := hheld
      refine Or.inr ?_
      split
      · next hvalid =>
        show transitionRow _ s .atrDelivery
        unfold transitionRow
        rw [hp]
        exact ⟨rfl, hr, hhold, hvalid⟩
      · next hvalid =>
        show transitionRow _ s .errorHalt
        unfold transitionRow
        rw [hp]
        exact ⟨rfl, hr, hhold, by simpa using hvalid⟩
    · exact Or.inl rfl

/-! ### The other events -/

theorem wtexp_row (h : Inv s) : (wtexp s).phase = s.phase ∨ transitionRow .wtexp s (wtexp s).phase := by
  by_cases harmed : s.wt.ticks = 0
  · have hidle : ¬ wtArmed s = true := by simp [wtArmed, harmed]
    unfold wtexp
    rw [if_neg hidle]
    split <;> exact Or.inl rfl
  · rw [wtexp_armed s harmed]
    exact Or.inr (transitionRow_expiry h harmed)

theorem setAtr_phase (bytes : List Byte) (s : State) : (setAtr bytes s).phase = s.phase := by
  unfold setAtr
  split_ifs <;> rfl

theorem txqApp_phase (bytes : List Byte) (s : State) : (txqApp bytes s).phase = s.phase := by
  unfold txqApp
  split_ifs <;> rfl

theorem kick_phase (s : State) : (kick s).phase = s.phase := by
  rw [kick_eq]
  exact (afterKick_frame s).1

/-- The phase after every event on a created handle. -/
theorem eventResult_allowed (h : Inv s) (i : Instr) :
    (eventResult i s).phase = s.phase ∨ transitionAllowed i s (eventResult i s).phase := by
  cases i with
  | init slot tc uart inep irqep => exact Or.inl rfl
  | iochgVcc a => exact (iochgVcc_row a s).imp id Or.inl
  | iochgRst a => exact (iochgRst_row a s).imp id Or.inl
  | iochgClk a => exact Or.inl rfl
  | rxb perr b => exact (rxb_follows h perr b).row.imp id Or.inl
  | txrdy n => exact (txrdy_follows h n).row.imp id Or.inl
  | wthalf => exact Or.inl (wthalf_phase s)
  | wtexp => exact (wtexp_row h).imp id Or.inl
  | setatr bytes => exact Or.inl (setAtr_phase bytes s)
  | txqapp bytes => exact Or.inl (txqApp_phase bytes s)
  | gettxq => exact Or.inl rfl
  | newtx => exact Or.inl (kick_phase s)
  | repstat => exact Or.inl rfl
  | etu rdr =>
    refine (etu_row h rdr).imp id fun hmoved => Or.inr ?_
    obtain ⟨e, he, hrow⟩ := hmoved
    exact ⟨rdr, e, rfl, he, hrow⟩
  | gviol => exact (gviol_follows s).row.imp id Or.inl

/-- Settles O53, event by event. -/
theorem phaseFollowsTheTransitionTable : Obligations.PhaseFollowsTheTransitionTable := by
  unfold Obligations.PhaseFollowsTheTransitionTable
  intro i s t h hi ht
  rw [eq_eventResult hi ht]
  exact eventResult_allowed h i

end Sys2Proof.Proofs
end

section
/-! PROOFS. The validity walk and the structure of an ATR (42_atr.md R160, R161): the walk gets through a byte
string exactly along a chain of groups of interface bytes, and what follows the chain is counted and checked. -/

namespace Sys2Proof.Proofs

open Sys2Proof Sys2Proof.Machine

/-! ### Nibbles and bits -/

/-- A byte is put together from its nibbles. -/
theorem eq_nibbles_iff {x : Byte} {hi lo : BitVec 4} :
    x = hi ++ lo ↔ x.extractLsb' 4 4 = hi ∧ x.extractLsb' 0 4 = lo := by
  calc x = hi ++ lo ↔ x.extractLsb' 0 (4 + 4) = hi ++ lo := by rw [BitVec.extractLsb'_eq_self]
    _ ↔ _ := extractLsb_eq_append_iff

/-- A Y nibble announces TA, TB and TC by its low bits and TD by bit 3 (R161). -/
theorem eq_yNibble_iff {y : BitVec 4} {g : AtrGroup} {more : List AtrGroup} :
    y = yNibble g more ↔
      y.getLsbD 3 = !more.isEmpty ∧ y.getLsbD 2 = g.tc.isSome ∧ y.getLsbD 1 = g.tb.isSome ∧
        y.getLsbD 0 = g.ta.isSome := by
  calc y = yNibble g more ↔ y.extractLsb' 0 (1 + 1 + 1 + 1) = yNibble g more := by
        rw [BitVec.extractLsb'_eq_self]
    _ ↔ _ := by
      unfold yNibble
      simp only [extractLsb_eq_append_iff, extractLsb_eq_ofBool_iff, and_assoc]

theorem yNibble_td (g : AtrGroup) (more : List AtrGroup) :
    (yNibble g more).getLsbD 3 = !more.isEmpty :=
  (eq_yNibble_iff.1 rfl).1

/-! ### The interface bytes of one group -/

/-- TA, TB, TC, as far as they are there. -/
def abcBytes (g : AtrGroup) : List Byte := g.ta.toList ++ g.tb.toList ++ g.tc.toList

theorem groupBytes_last (g : AtrGroup) : groupBytes g [] = abcBytes g := rfl

theorem groupBytes_more (g h : AtrGroup) (more : List AtrGroup) :
    groupBytes g (h :: more) = abcBytes g ++ (yNibble h more ++ h.proto) :: groupBytes h more := by
  simp [groupBytes, abcBytes]

theorem length_optionBytes (o : Option Byte) : o.toList.length = o.isSome.toNat := by
  cases o <;> rfl

/-- As many bytes as the Y nibble announces. -/
theorem length_abcBytes {y : BitVec 4} {g : AtrGroup} {more : List AtrGroup} (h : y = yNibble g more) :
    (abcBytes g).length = announcedAbc y := by
  obtain ⟨-, hc, hb, ha⟩ := eq_yNibble_iff.1 h
  simp only [abcBytes, announcedAbc, List.length_append, length_optionBytes, ha, hb, hc]

/-- An announced byte that is there can be split off. -/
theorem exists_optionByte (p : Bool) {d : List Byte} (h : p.toNat ≤ d.length) :
    ∃ (o : Option Byte) (rest : List Byte), p = o.isSome ∧ d = o.toList ++ rest := by
  cases p with
  | false => exact ⟨none, d, rfl, rfl⟩
  | true =>
    cases d with
    | nil => simp at h
    | cons x rest => exact ⟨some x, rest, rfl, rfl⟩

/-- So can the interface bytes that a Y nibble announces, whatever announced the group and whatever TD says. -/
theorem exists_abcBytes (y proto : BitVec 4) {d : List Byte} (h : announcedAbc y ≤ d.length) :
    ∃ (g : AtrGroup) (rest : List Byte), d = abcBytes g ++ rest ∧ g.proto = proto ∧
      (abcBytes g).length = announcedAbc y ∧ ∀ more, y.getLsbD 3 = !more.isEmpty → y = yNibble g more := by
  unfold announcedAbc at h
  obtain ⟨ta, d1, ha, rfl⟩ := exists_optionByte (y.getLsbD 0) (d := d) (by omega)
  rw [List.length_append, length_optionBytes, ← ha] at h
  obtain ⟨tb, d2, hb, rfl⟩ := exists_optionByte (y.getLsbD 1) (d := d1) (by omega)
  rw [List.length_append, length_optionBytes, ← hb] at h
  obtain ⟨tc, rest, hc, rfl⟩ := exists_optionByte (y.getLsbD 2) (d := d2) (by omega)
  exact ⟨⟨ta, tb, tc, proto⟩, rest, by simp [abcBytes], rfl,
    by simp only [abcBytes, announcedAbc, List.length_append, length_optionBytes, ha, hb, hc],
    fun more htd => eq_yNibble_iff.2 ⟨htd, hc, hb, ha⟩⟩

/-! ### One round of the walk (R160) -/

section

variable {fuel i : Nat} {y : BitVec 4} {tck : Bool}

/-- With no TD announced the walk ends behind the interface bytes. -/
theorem atrWalk_last {b : List Byte} {n : Nat} (h : y.getLsbD 3 = false) :
    atrWalk b n (fuel + 1) i y tck = some (i + announcedAbc y, tck) := by
  rw [atrWalk, if_neg (by rw [h]; exact Bool.false_ne_true)]

/-- A TD outside the bytes. -/
theorem atrWalk_outside {b : List Byte} {n : Nat} (h : y.getLsbD 3 = true)
    (hout : n ≤ i + announcedAbc y) : atrWalk b n (fuel + 1) i y tck = none := by
  rw [atrWalk, if_pos h, if_pos hout]

theorem rdBuf_append_cons (pre : List Byte) (x : Byte) (post : List Byte) :
    rdBuf (pre ++ x :: post) pre.length = x := by
  simp [rdBuf]

/-- A TD behind the interface bytes: the walk goes on behind it with its Y nibble, and asks for a check byte
unless its protocol is 0. -/
theorem atrWalk_td (g : AtrGroup) (pre : List Byte) (x : Byte) (rest : List Byte)
    (h : y.getLsbD 3 = true) (hg : (abcBytes g).length = announcedAbc y) :
    atrWalk (pre ++ (abcBytes g ++ x :: rest)) (pre ++ (abcBytes g ++ x :: rest)).length (fuel + 1)
        pre.length y tck =
      atrWalk (pre ++ abcBytes g ++ [x] ++ rest) (pre ++ abcBytes g ++ [x] ++ rest).length fuel
        (pre ++ abcBytes g ++ [x]).length (x.extractLsb' 4 4) (tck || x.extractLsb' 0 4 != 0) := by
  have hsplit : pre ++ abcBytes g ++ [x] ++ rest = pre ++ abcBytes g ++ x :: rest := by simp
  have hat : pre.length + announcedAbc y = (pre ++ abcBytes g).length := by
    rw [← hg, List.length_append]
  have hin : ¬ (pre ++ abcBytes g ++ x :: rest).length ≤ (pre ++ abcBytes g).length := by simp
  rw [hsplit, ← List.append_assoc, List.length_append (bs := [x]), atrWalk, if_pos h, hat, if_neg hin,
    rdBuf_append_cons]
  rfl

end

/-! ### The walk and the chain of groups (R160, R161) -/

/-- Does a TD byte of the chain name a protocol other than 0? -/
def namesOther (more : List AtrGroup) : Bool := more.any (fun g => g.proto != 0)

theorem namesOther_cons (h : AtrGroup) (more : List AtrGroup) :
    namesOther (h :: more) = (h.proto != 0 || namesOther more) := rfl

/-- The walk gets through a chain of groups, and stops behind it. -/
theorem atrWalk_groupBytes (more : List AtrGroup) :
    ∀ (g : AtrGroup) (pre post : List Byte) (fuel : Nat) (tck : Bool), more.length < fuel →
      atrWalk (pre ++ (groupBytes g more ++ post)) (pre ++ (groupBytes g more ++ post)).length fuel
          pre.length (yNibble g more) tck =
        some (pre.length + (groupBytes g more).length, tck || namesOther more) := by
  induction more with
  | nil =>
    intro g pre post fuel tck hfuel
    obtain ⟨fuel, rfl⟩ := Nat.exists_eq_add_one_of_ne_zero (Nat.ne_zero_of_lt hfuel)
    rw [atrWalk_last (yNibble_td g []), ← length_abcBytes rfl, groupBytes_last, namesOther,
      List.any_nil, Bool.or_false]
  | cons h more ih =>
    intro g pre post fuel tck hfuel
    obtain ⟨fuel, rfl⟩ := Nat.exists_eq_add_one_of_ne_zero (Nat.ne_zero_of_lt hfuel)
    obtain ⟨hhi, hlo⟩ := (eq_nibbles_iff (x := yNibble h more ++ h.proto)).1 rfl
    have hchain := ih h (pre ++ abcBytes g ++ [yNibble h more ++ h.proto]) post fuel
      (tck || h.proto != 0) (Nat.lt_of_succ_lt_succ hfuel)
    rw [groupBytes_more, List.append_assoc, List.cons_append,
      atrWalk_td g pre _ _ (yNibble_td g _) (length_abcBytes rfl), hhi, hlo, hchain, namesOther_cons,
      Bool.or_assoc]
    congr 2
    simp only [List.length_append, List.length_cons, List.length_nil]
    omega

/-- What the walk gets through is a chain of groups, announced by the nibble it started from. -/
theorem groupBytes_of_atrWalk (fuel : Nat) :
    ∀ (pre d : List Byte) (y proto : BitVec 4) (tck : Bool) (j : Nat) (due : Bool),
      atrWalk (pre ++ d) (pre ++ d).length fuel pre.length y tck = some (j, due) →
        j ≤ (pre ++ d).length →
        ∃ (g : AtrGroup) (more : List AtrGroup) (post : List Byte),
          d = groupBytes g more ++ post ∧ g.proto = proto ∧ y = yNibble g more ∧
            j = pre.length + (groupBytes g more).length ∧ due = (tck || namesOther more) := by
  induction fuel with
  | zero => intro pre d y proto tck j due hwalk; simp [atrWalk] at hwalk
  | succ fuel ih =>
    intro pre d y proto tck j due hwalk hj
    cases htd : y.getLsbD 3 with
    | false =>
      rw [atrWalk_last htd] at hwalk
      obtain ⟨rfl, rfl⟩ := Prod.mk.inj (Option.some.inj hwalk)
      rw [List.length_append] at hj
      obtain ⟨g, post, rfl, hproto, hg, hy⟩ := exists_abcBytes y proto (d := d) (by omega)
      exact ⟨g, [], post, rfl, hproto, hy [] htd, by rw [groupBytes_last, hg],
        (Bool.or_false _).symm⟩
    | true =>
      by_cases hout : (pre ++ d).length ≤ pre.length + announcedAbc y
      · rw [atrWalk_outside htd hout] at hwalk; cases hwalk
      rw [List.length_append] at hout
      obtain ⟨g, rest, rfl, hproto, hg, hy⟩ := exists_abcBytes y proto (d := d) (by omega)
      cases rest with
      | nil => simp [hg] at hout
      | cons x rest =>
        rw [atrWalk_td g pre x rest htd hg] at hwalk
        rw [show pre ++ (abcBytes g ++ x :: rest) = pre ++ abcBytes g ++ [x] ++ rest by simp] at hj
        obtain ⟨h, more, post, rfl, hlo, hhi, rfl, rfl⟩ :=
          ih _ _ _ (x.extractLsb' 0 4) _ _ _ hwalk hj
        have hx : x = yNibble h more ++ h.proto := eq_nibbles_iff.2 ⟨hhi, hlo.symm⟩
        refine ⟨g, h :: more, post, ?_, hproto, hy _ htd, ?_, ?_⟩
        · rw [groupBytes_more, ← hx, List.append_assoc, List.cons_append]
        · rw [groupBytes_more]
          simp only [List.length_append, List.length_cons, List.length_nil]
          omega
        · rw [namesOther_cons, hlo, Bool.or_assoc]

/-! ### The check byte (R161) -/

theorem xorReduce_concat (bytes : List Byte) (x : Byte) :
    xorReduce (bytes ++ [x]) = xorReduce bytes ^^^ x := by
  simp [xorReduce]

/-- What stands behind the historical bytes is the check byte, exactly when it has its length and makes the
exclusive-or zero. -/
theorem eq_checkByte_iff (due : Bool) (body trail : List Byte) :
    trail = (if due then [xorReduce body] else []) ↔
      trail.length = due.toNat ∧ (due = true → xorReduce (body ++ trail) = 0) := by
  cases due with
  | false => simp
  | true =>
    constructor
    · rintro rfl
      exact ⟨rfl, fun _ => by simp [xorReduce_concat]⟩
    · rintro ⟨hlen, hzero⟩
      obtain ⟨x, rfl⟩ := List.length_eq_one_iff.1 hlen
      have hx : xorReduce body = x := BitVec.xor_eq_zero_iff.1 (xorReduce_concat body x ▸ hzero rfl)
      rw [hx, if_pos rfl]

/-! ### The whole ATR -/

/-- TS of an ATR (R161). -/
def tsByte (inverse : Bool) : Byte := if inverse then 0x3F else 0x3B

/-- A TS byte is one of two. -/
theorem exists_tsByte_iff {x : Byte} : (∃ inverse, x = tsByte inverse) ↔ ¬ (x ≠ 0x3B ∧ x ≠ 0x3F) := by
  simp only [Bool.exists_bool, tsByte]
  tauto

/-- The tests of R160 on a byte string that has TS and T0. -/
theorem atrValid_cons_iff (c : Config) (ts t0 : Byte) (d : List Byte) :
    atrValid c (ts :: t0 :: d) (ts :: t0 :: d).length = true ↔
      (ts :: t0 :: d).length ≤ c.atrMax ∧ (∃ inverse, ts = tsByte inverse) ∧
        ∃ j due,
          atrWalk (ts :: t0 :: d) (ts :: t0 :: d).length (ts :: t0 :: d).length 2 (t0.extractLsb' 4 4)
              false = some (j, due) ∧
            j + (t0.extractLsb' 0 4).toNat + due.toNat = (ts :: t0 :: d).length ∧
              (due = true → xorReduce (t0 :: d) = 0) := by
  have htwo : ¬ (ts :: t0 :: d).length < 2 := by simp
  have hrest : ((ts :: t0 :: d).take (ts :: t0 :: d).length).drop 1 = t0 :: d := by
    rw [List.take_length]; rfl
  have hts : rdBuf (ts :: t0 :: d) 0 = ts := rfl
  have ht0 : rdBuf (ts :: t0 :: d) 1 = t0 := rfl
  rw [exists_tsByte_iff, atrValid, hrest, hts, ht0]
  generalize ts :: t0 :: d = b at *
  by_cases hlong : c.atrMax < b.length
  · rw [if_pos (Or.inr hlong)]
    exact iff_of_false Bool.false_ne_true fun h => Nat.not_le.2 hlong h.1
  by_cases hbad : ts ≠ 0x3B ∧ ts ≠ 0x3F
  · rw [if_neg (not_or.2 ⟨htwo, hlong⟩), if_pos hbad]
    exact iff_of_false Bool.false_ne_true fun h => h.2.1 hbad
  rw [if_neg (not_or.2 ⟨htwo, hlong⟩), if_neg hbad, and_iff_right (Nat.le_of_not_lt hlong),
    and_iff_right hbad]
  cases atrWalk b b.length b.length 2 (t0.extractLsb' 4 4) false with
  | none => simp
  | some r =>
    obtain ⟨j, due⟩ := r
    cases due <;> simp

/-- The bytes of an ATR: TS, T0, the chain of groups, the historical bytes, the check byte if due. -/
theorem atrBytes_eq (a : AtrShape) :
    a.bytes = tsByte a.inverse :: (yNibble a.first a.more ++ BitVec.ofNat 4 a.historical.length) ::
      (groupBytes a.first a.more ++
        (a.historical ++ if namesOther a.more then [xorReduce a.body] else [])) := by
  simp [AtrShape.bytes, AtrShape.body, tsByte, namesOther, AtrShape.tckDue]

/-- A chain takes at least one byte for each group but the first. -/
theorem length_le_groupBytes (more : List AtrGroup) :
    ∀ g, more.length ≤ (groupBytes g more).length := by
  induction more with
  | nil => intro g; exact Nat.zero_le _
  | cons h more ih =>
    intro g
    have := ih h
    rw [groupBytes_more]
    simp only [List.length_append, List.length_cons]
    omega

/-- T0 counts the historical bytes in its low nibble. -/
theorem historicalCount_toNat {n : Nat} (h : n ≤ 15) : (BitVec.ofNat 4 n).toNat = n :=
  Nat.mod_eq_of_lt (Nat.lt_succ_of_le h)

/-- Every well-built ATR that fits is valid. -/
theorem atrValid_of_shape (c : Config) (a : AtrShape) (hhist : a.historical.length ≤ 15)
    (hfit : a.bytes.length ≤ c.atrMax) : atrValid c a.bytes a.bytes.length = true := by
  have hbytes := atrBytes_eq a
  have hbody : a.body = (yNibble a.first a.more ++ BitVec.ofNat 4 a.historical.length) ::
      (groupBytes a.first a.more ++ a.historical) := rfl
  generalize htrail : (if namesOther a.more then [xorReduce a.body] else []) = trail at hbytes
  obtain ⟨htlen, hzero⟩ := (eq_checkByte_iff _ _ _).1 htrail.symm
  obtain ⟨hhi, hlo⟩ := (eq_nibbles_iff
    (x := yNibble a.first a.more ++ BitVec.ofNat 4 a.historical.length)).1 rfl
  have hfuel : a.more.length < a.bytes.length := by
    have := length_le_groupBytes a.more a.first
    rw [hbytes]
    simp only [List.length_append, List.length_cons]
    omega
  have hwalk := atrWalk_groupBytes a.more a.first
    [tsByte a.inverse, yNibble a.first a.more ++ BitVec.ofNat 4 a.historical.length]
    (a.historical ++ trail) a.bytes.length false hfuel
  rw [hbytes] at hfit hwalk ⊢
  refine (atrValid_cons_iff c _ _ _).2 ⟨hfit, ⟨a.inverse, rfl⟩, _, _, by rw [hhi]; exact hwalk, ?_, ?_⟩
  · rw [hlo, historicalCount_toNat hhist]
    simp only [List.length_append, List.length_cons, List.length_nil, htlen, Bool.false_or]
    omega
  · rw [hbody] at hzero
    simpa using hzero

/-- Every valid byte string is a well-built ATR. -/
theorem exists_shape_of_atrValid {c : Config} {b : List Byte} (h : atrValid c b b.length = true) :
    ∃ a : AtrShape, a.historical.length ≤ 15 ∧ a.bytes = b := by
  obtain _ | ⟨ts, _ | ⟨t0, d⟩⟩ := b
  · cases h
  · cases h
  obtain ⟨-, ⟨inverse, rfl⟩, j, due, hwalk, hlen, hzero⟩ := (atrValid_cons_iff c _ _ _).1 h
  obtain ⟨g, more, post, rfl, -, hy, rfl, rfl⟩ := groupBytes_of_atrWalk _ [tsByte inverse, t0] d
    (t0.extractLsb' 4 4) 0 false _ _ hwalk (by simp only [List.cons_append, List.nil_append]; omega)
  have hcount : (t0.extractLsb' 0 4).toNat + (namesOther more).toNat = post.length := by
    simp only [List.length_cons, List.length_nil, List.length_append, Bool.false_or] at hlen
    omega
  obtain ⟨historical, trail, rfl, hhist⟩ : ∃ historical trail, post = historical ++ trail ∧
      historical.length = (t0.extractLsb' 0 4).toNat :=
    ⟨_, _, (List.take_append_drop (t0.extractLsb' 0 4).toNat post).symm,
      by rw [List.length_take]; omega⟩
  have ht0 : t0 = yNibble g more ++ BitVec.ofNat 4 historical.length :=
    eq_nibbles_iff.2 ⟨hy, by rw [hhist, BitVec.ofNat_toNat, BitVec.setWidth_eq]⟩
  have htrail : trail = if namesOther more then
      [xorReduce (t0 :: (groupBytes g more ++ historical))] else [] := by
    refine (eq_checkByte_iff _ _ _).2 ⟨?_, fun hdue => ?_⟩
    · rw [List.length_append] at hcount; omega
    · simpa using hzero (by simpa using hdue)
  refine ⟨⟨inverse, g, more, historical⟩, ?_, ?_⟩
  · have := (t0.extractLsb' 0 4).isLt
    show historical.length ≤ 15
    omega
  · rw [atrBytes_eq, htrail, ht0]
    rfl

/-- Settles O15: the walk along the chain of groups gives the shape, and the shape the walk. -/
theorem validAtrsAreTheWellBuiltOnes : Obligations.ValidAtrsAreTheWellBuiltOnes := by
  unfold Obligations.ValidAtrsAreTheWellBuiltOnes
  intro c b
  constructor
  · intro h
    obtain ⟨a, hhist, rfl⟩ := exists_shape_of_atrValid h
    exact ⟨a, hhist, atrValid_length h, rfl⟩
  · rintro ⟨a, hhist, hfit, rfl⟩
    exact atrValid_of_shape c a hhist hfit

end Sys2Proof.Proofs
end

section
/-! PROOFS. `SETATR`, and the ATR as the first source of `TXRDY` (41_protocol_fsm.md R133, R138, 42_atr.md R162 to
R165). -/

namespace Sys2Proof.Proofs

open Sys2Proof Sys2Proof.Machine

variable {s : State}

/-! ### SETATR -/

/-- An ATR that fits is loaded whole, with zeros above it (R162). -/
theorem loadBuf_of_fits {m : Nat} {bytes : List Byte} (h : bytes.length ≤ m) :
    loadBuf m bytes = bytes ++ List.replicate (m - bytes.length) 0 := by
  rw [loadBuf, List.take_of_length_le h]

theorem midDelivery_iff : midDelivery s = true ↔ s.phase = .atrDelivery ∧ s.atr.done = false := by
  simp [midDelivery]

/-- Settles O16, by the tests of R162 in their order. -/
theorem setatrRejectsDefersOrWrites : Obligations.SetatrRejectsDefersOrWrites := by
  unfold Obligations.SetatrRejectsDefersOrWrites
  intro bytes s hi
  rw [exec_of_inited _ hi]
  congr 1
  show setAtr bytes s = _
  unfold setAtr
  by_cases hlong : s.config.atrMax < bytes.length
  · rw [if_pos hlong, if_pos hlong]
    rfl
  · rw [if_neg hlong, if_neg hlong, loadBuf_of_fits (Nat.le_of_not_lt hlong)]
    simp only [midDelivery_iff]
    rfl

/-! ### TXRDY in a delivery -/

/-- The state after one more byte of the ATR has been handed over (R164). -/
def atrByteSent (s : State) : State :=
  (afterSend (s.atr.buf.getD s.atr.idx.toNat 0)
    (acknowledged { s with atr := { s.atr with idx := s.atr.idx + 1 } })).returns 0

/-- A `TXRDY` of a delivery that is no rejection: the next byte, or the end of the ATR and the search that goes
on after it (R164, R165). -/
theorem txrdy_of_delivery {n : Bool} (hn : (s.seq.txLastValid && n) = false)
    (ha : s.seq.txActive = true) (hp : s.phase = .atrDelivery) (hd : s.atr.done = false) :
    txrdy n s =
      if s.atr.idx.toNat < s.atr.len.toNat then atrByteSent s
      else txFromPps (atrEnded (acknowledged s)) := by
  have hmid : midDelivery (acknowledged s) = true := midDelivery_iff.2 ⟨hp, hd⟩
  rw [txrdy_search n s (by rw [hp]; rfl) ha hn, txAck_eq, txFromAtr, if_pos hmid, send_eq,
    atrComplete_eq]
  rfl

/-- Settles O26, the branch of the search below `ATR_LEN`. -/
theorem txrdySendsTheAtrByte : Obligations.TxrdySendsTheAtrByte := by
  unfold Obligations.TxrdySendsTheAtrByte
  intro n s hi hn ha hp hd hlt
  have hsent : txrdy n s = atrByteSent s := (txrdy_of_delivery hn ha hp hd).trans (if_pos hlt)
  rw [exec_of_inited _ hi]
  exact congrArg Host.Outcome.next hsent

/-- The phase in which the search goes on after the ATR (R165). -/
theorem atrEnded_phase (s : State) :
    (atrEnded s).phase = if s.atr.ppsCapable then s.phase else .tpduExchange := by
  unfold atrEnded
  dsimp only
  split <;> rfl

/-- Outside a PPS response the search goes on with the queue (R133 step 4). -/
theorem txFromPps_of_phase (h : s.phase ≠ .ppsNegotiation) : txFromPps s = txFromQueue s := by
  rw [txFromPps, if_neg h]

/-- After the ATR the search goes on with the queue in the exchange, and finds nothing when a PPS is offered
(R165, R133 step 5). -/
theorem search_after_atr (hp : s.phase = .atrDelivery) :
    txFromPps (atrEnded s) =
      if s.atr.ppsCapable then afterTxIdle (atrEnded s) else afterQueue (atrEnded s) := by
  have hphase := atrEnded_phase s
  cases hcap : s.atr.ppsCapable with
  | true =>
    have hstays : (atrEnded s).phase = .atrDelivery := by rw [hphase, if_pos hcap, hp]
    rw [txFromPps_of_phase (by simp [hstays]), txFromQueue_idle _ (by simp [hstays])]
    rfl
  | false =>
    have hmoves : (atrEnded s).phase = .tpduExchange := by rw [hphase, if_neg (by simp [hcap])]
    rw [txFromPps_of_phase (by simp [hmoves]), txFromQueue_eq _ hmoves]
    rfl

/-- Settles O27: the end of the ATR, then the search that goes on after it. -/
theorem txrdyEndsTheAtr : Obligations.TxrdyEndsTheAtr := by
  unfold Obligations.TxrdyEndsTheAtr
  intro n s hi hn ha hp hd hle
  have hended : txrdy n s = txFromPps (atrEnded (acknowledged s)) :=
    (txrdy_of_delivery hn ha hp hd).trans (if_neg (Nat.not_lt.2 hle))
  rw [exec_of_inited _ hi]
  exact congrArg Host.Outcome.next (hended.trans (search_after_atr (s := acknowledged s) hp))

/-! ### A run of TXRDY -/

/-- A created delivery in flight, under the invariant: where the ATR is handed over from. -/
structure Delivering (s : State) : Prop where
  inv : Inv s
  inited : s.ident.inited = true
  phase : s.phase = .atrDelivery
  undone : s.atr.done = false

/-- What handing over the bytes `bs` of the ATR has put out, and where it leaves the delivery. -/
structure AtrLeft (bs : List Byte) (s t : State) : Prop where
  cmds : t.ports.cmds = s.ports.cmds ++ bs.map (txByteWord s.ident)
  rets : t.ports.rets = s.ports.rets ++ List.replicate bs.length 0
  phase : t.phase = .atrDelivery
  atr : t.atr = { s.atr with idx := s.atr.idx + BitVec.ofNat 6 bs.length }

/-- The bytes of the ATR that have not been handed over. -/
def atrRest (a : AtrHolder) : List Byte := (a.buf.take a.len.toNat).drop a.idx.toNat

/-- The waiting time is not armed before the ATR is done (R40 d). -/
theorem Delivering.unarmed (h : Delivering s) : s.wt.ticks = 0 := by
  by_contra harmed
  have hx := h.inv.documented.armed.1 harmed
  simp [h.phase, h.undone] at hx

/-- The transmitter runs until the ATR is done (R163). -/
theorem Delivering.active (h : Delivering s) : s.seq.txActive = true := by
  rw [h.inv.bounded.delivering h.phase, h.undone]; rfl

theorem Delivering.idx_le (h : Delivering s) : s.atr.idx.toNat ≤ s.atr.len.toNat :=
  h.inv.documented.deliveryIdx (midDelivery_iff.2 ⟨h.phase, h.undone⟩)

/-- With bytes left, the one at the index is the first of them, and moving the index leaves the others. -/
theorem atrRest_eq_cons {a : AtrHolder} (hfit : a.len.toNat ≤ a.buf.length)
    (hlt : a.idx.toNat < a.len.toNat) :
    atrRest a = a.buf.getD a.idx.toNat 0 :: atrRest { a with idx := a.idx + 1 } := by
  have hin : a.idx.toNat < (a.buf.take a.len.toNat).length := by
    rw [List.length_take]; omega
  have hsucc : (a.idx + 1).toNat = a.idx.toNat + 1 := by
    have := a.len.isLt
    rw [BitVec.toNat_add]; simp; omega
  unfold atrRest
  rw [List.drop_eq_getElem_cons hin, List.getElem_take, hsucc,
    List.getD_eq_getElem _ _ (by omega)]

/-- One `TXRDY` while bytes are left. -/
theorem Delivering.exec_txrdy (h : Delivering s) (hlt : s.atr.idx.toNat < s.atr.len.toNat) :
    exec (.txrdy false) s = .next (atrByteSent s) :=
  txrdySendsTheAtrByte false s h.inited (Bool.and_false _) h.active h.phase h.undone hlt

/-- The delivery goes on after it. -/
theorem Delivering.next (h : Delivering s) (hlt : s.atr.idx.toNat < s.atr.len.toNat) :
    Delivering (atrByteSent s) :=
  ⟨exec_inv h.inv (h.exec_txrdy hlt), h.inited, h.phase, h.undone⟩

theorem atrByteSent_atr (s : State) :
    (atrByteSent s).atr = { s.atr with idx := s.atr.idx + 1 } := rfl

/-- Its one command is the byte: with the waiting time not armed there is no RESET_WT. -/
theorem Delivering.sent_cmds (h : Delivering s) :
    (atrByteSent s).ports.cmds =
      s.ports.cmds ++ [txByteWord s.ident (s.atr.buf.getD s.atr.idx.toNat 0)] := by
  have hnone : (if s.wt.ticks = 0 then [] else [resetWtWord s.ident]) = [] := if_pos h.unarmed
  exact congrArg (fun ws => s.ports.cmds ++ txByteWord s.ident _ :: ws) hnone

/-- A byte handed over, and then the others. -/
theorem AtrLeft.cons {bs : List Byte} {t : State} (h : Delivering s)
    (hl : AtrLeft bs (atrByteSent s) t) :
    AtrLeft (s.atr.buf.getD s.atr.idx.toNat 0 :: bs) s t where
  cmds := by
    rw [hl.cmds, h.sent_cmds, List.append_assoc]
    rfl
  rets := by
    rw [hl.rets, List.length_cons, List.replicate_succ]
    exact List.append_assoc _ [0] _
  phase := hl.phase
  atr := by
    rw [hl.atr, atrByteSent_atr, List.length_cons, Nat.add_comm, BitVec.ofNat_add, ← BitVec.add_assoc]
    rfl

/-- As many `TXRDY` as bytes are left hand over exactly those. -/
theorem runEvents_delivers (bs : List Byte) : ∀ s : State, Delivering s → atrRest s.atr = bs →
    ∃ t, runEvents (List.replicate bs.length (.txrdy false)) s = .next t ∧ AtrLeft bs s t := by
  induction bs with
  | nil =>
    intro s h _
    exact ⟨s, rfl, by simp, by simp, h.phase, by simp⟩
  | cons b bs ih =>
    intro s h hrest
    have hfit : s.atr.len.toNat ≤ s.atr.buf.length := by
      rw [h.inv.bounded.atrBuf.1]; exact h.inv.documented.heldAtr.1
    have hlt : s.atr.idx.toNat < s.atr.len.toNat := by
      have hlen := congrArg List.length hrest
      simp only [atrRest, List.length_drop, List.length_take, List.length_cons] at hlen
      omega
    rw [atrRest_eq_cons hfit hlt] at hrest
    obtain ⟨rfl, hothers⟩ := List.cons.inj hrest
    obtain ⟨t, hrun, hleft⟩ := ih _ (h.next hlt) hothers
    refine ⟨t, ?_, hleft.cons h⟩
    rw [List.length_cons, List.replicate_succ, runEvents_cons (h.exec_txrdy hlt)]
    exact hrun

/-- Settles O18, by induction on the bytes left. -/
theorem atrBytesLeaveInOrder : Obligations.AtrBytesLeaveInOrder := by
  unfold Obligations.AtrBytesLeaveInOrder
  intro s h hi hp hd hidx
  have hbytes : atrRest s.atr = s.atr.buf.take s.atr.len.toNat := by simp [atrRest, hidx]
  have hlen : (s.atr.buf.take s.atr.len.toNat).length = s.atr.len.toNat := by
    rw [List.length_take, h.bounded.atrBuf.1, Nat.min_eq_left h.documented.heldAtr.1]
  obtain ⟨t, hrun, hleft⟩ := runEvents_delivers _ s ⟨h, hi, hp, hd⟩ hbytes
  rw [hlen] at hrun
  refine ⟨t, hrun, hleft.cmds, by rw [hleft.rets, hlen], hleft.phase, ?_⟩
  have hend : s.atr.idx + BitVec.ofNat 6 s.atr.len.toNat = s.atr.len := by simp [hidx]
  rw [hleft.atr, hlen, hend]

end Sys2Proof.Proofs
end

section
/-! PROOFS. The PPS exchange by the events that carry it, and the tables of F and D with the numeric codes
(10_state.md R22, R30, 30_encoding.md R88, 41_protocol_fsm.md R133, 43_pps_and_fd.md R180 to R188). -/

namespace Sys2Proof.Proofs

open Sys2Proof Sys2Proof.Machine

/-! ### The request -/

/-- Settles O23: the byte is a good and legal one of the request, so it is collected; taking it touches no PPS
register, so it commutes with the append. -/
theorem ppsBytesAreCollectedAndEvaluated : Obligations.PpsBytesAreCollectedAndEvaluated := by
  unfold Obligations.PpsBytesAreCollectedAndEvaluated
  intro b s hi hp hr
  have hcollect : rxb false b s = ppsCollect b (afterRxGood s) := rxb_good_pps b hp hr
  rw [exec_of_inited _ hi]
  refine congrArg Host.Outcome.next (hcollect.trans ?_)
  rw [ppsCollect_eq]
  rfl

/-! ### The response -/

section
variable {s : State}

/-- The state after one more byte of the response has been handed over (R186). -/
def ppsByteSent (s : State) : State :=
  (afterSend (s.pps.resp.getD s.pps.respIdx.toNat 0)
    (acknowledged { s with pps := { s.pps with respIdx := s.pps.respIdx + 1 } })).returns 0

/-- During a PPS the first source of `TXRDY` has nothing (R133 step 4). -/
theorem txFromAtr_of_pps (hp : s.phase = .ppsNegotiation) : txFromAtr s = txFromPps s := by
  have hmid : ¬ midDelivery s = true := by simp [midDelivery, hp]
  rw [txFromAtr, if_neg hmid]

/-- A `TXRDY` of a PPS that is no rejection looks at the response. -/
theorem txrdy_of_pps {n : Bool} (hn : (s.seq.txLastValid && n) = false) (ha : s.seq.txActive = true)
    (hp : s.phase = .ppsNegotiation) : txrdy n s = txFromPps (acknowledged s) := by
  rw [txrdy_search n s (by rw [hp]; rfl) ha hn, txAck_eq, txFromAtr_of_pps (s := acknowledged s) hp]

/-- Below `PPS_RESP_LEN` the next byte of the response is sent (R186). -/
theorem txFromPps_sends (hp : s.phase = .ppsNegotiation)
    (hlt : s.pps.respIdx.toNat < s.pps.respLen.toNat) :
    txFromPps (acknowledged s) = ppsByteSent s := by
  rw [txFromPps, if_pos (by exact hp), if_pos (by exact hlt), send_eq]
  rfl

/-- At the end of a response the PPS is completed, which enters the exchange, so the search goes on with the
queue (R187). -/
theorem txFromPps_ends (hp : s.phase = .ppsNegotiation)
    (hle : s.pps.respLen.toNat ≤ s.pps.respIdx.toNat) (hr : s.pps.respLen ≠ 0) :
    txFromPps s = afterQueue (ppsEnded s) := by
  have hexchange : (ppsEnded s).phase = .tpduExchange := rfl
  rw [txFromPps, if_pos hp, if_neg (Nat.not_lt.2 hle), if_pos hr, ppsComplete_eq,
    txFromQueue_eq _ hexchange]

end

/-- Settles O28, by the two branches of the search in the response. -/
theorem txrdySendsThePpsResponse : Obligations.TxrdySendsThePpsResponse := by
  unfold Obligations.TxrdySendsThePpsResponse
  intro n s hi hn ha hp
  have hsearch : txrdy n s = txFromPps (acknowledged s) := txrdy_of_pps hn ha hp
  rw [exec_of_inited _ hi]
  constructor
  · intro hlt
    exact congrArg Host.Outcome.next (hsearch.trans (txFromPps_sends hp hlt))
  · intro hle hr
    exact congrArg Host.Outcome.next (hsearch.trans (txFromPps_ends (s := acknowledged s) hp hle hr))

/-! ### Tables and codes -/

/-- The indices of F that the default table does not reserve (R180). -/
theorem fOf_default_ne_zero_iff (fi : BitVec 4) :
    fOf {} fi ≠ 0 ↔ fi.toNat ∈ [0, 1, 2, 3, 4, 5, 6, 9, 10, 11, 12, 13] := by
  revert fi
  decide

/-- The indices of D that the default table does not reserve (R181). -/
theorem dOf_default_ne_zero_iff (di : BitVec 4) : dOf {} di ≠ 0 ↔ 1 ≤ di.toNat ∧ di.toNat ≤ 9 := by
  revert di
  decide

/-- The default configuration withdraws no pair, so `FD_SUPPORTED` asks for two indices that are not reserved
(R182). -/
theorem fdSupported_default_iff (fi di : BitVec 4) :
    fdSupported {} fi di = true ↔
      fi.toNat ∈ [0, 1, 2, 3, 4, 5, 6, 9, 10, 11, 12, 13] ∧ 1 ≤ di.toNat ∧ di.toNat ≤ 9 := by
  have hnone : (fi, di) ∉ ({} : Config).fdWithdrawn := List.not_mem_nil
  rw [fdSupported_iff, fOf_default_ne_zero_iff, dOf_default_ne_zero_iff, and_iff_left hnone]

/-- Settles O49: the tables and codes by evaluation, the supported pairs and the exact waiting time by their
lemmas. -/
theorem tablesAndCodesHaveTheirValues : Obligations.TablesAndCodesHaveTheirValues := by
  unfold Obligations.TablesAndCodesHaveTheirValues
  have hwait (c : Config) (di : BitVec 4) (hc : configInRange c = true) :
      (wtValue c di).toNat = 960 * c.wi * (dOf c di).toNat := wtValue_toNat (inRange_of_check hc) di
  exact ⟨by decide, by decide, fdSupported_default_iff, by decide, hwait, by decide, by decide, by decide⟩

end Sys2Proof.Proofs
end

section
/-! PROOFS. One `ETU` in each place where the framer can stand (44_framer.md R200, R204 to R208): with the clock
stopped, on a quiet line, with the receiver or the transmitter open, in a transmitted slot, in a guard slot. -/

namespace Sys2Proof.Proofs

open Sys2Proof Sys2Proof.Machine

variable {s : State}

/-! ### The tick with its framer step (R200) -/

/-- An `ETU` with the clock running: the three first counters, the framer, the service of the transmitter, the
waiting time. -/
theorem exec_etu (rdr : Bool) (hi : s.ident.inited = true) (hc : s.lines.clk = true) :
    exec (.etu rdr) s =
      .next (waitTick (serviced (framerStep (ioIn rdr s) s.line.ioDrv (tickStart s)))) :=
  etu_eq s rdr hi hc rfl (framerStep_reports (tickStart s) _ _).ident

/-- While the engine sends no character, the framer sees the reader's level and `IO_DRV` (R201, R202). -/
theorem exec_etu_of_not_tx (rdr : Bool) (hi : s.ident.inited = true) (hc : s.lines.clk = true)
    (hm : s.fr.mode ≠ .tx) :
    exec (.etu rdr) s =
      .next (waitTick (serviced (framerStep (rdr && s.line.ioDrv) s.line.ioDrv (tickStart s)))) := by
  rw [exec_etu rdr hi hc, ioIn_of_not_tx rdr hm]

/-- A line that is not pulled low by the engine is low exactly when the reader pulls it. -/
theorem reader_low_iff (rdr drv : Bool) : ((rdr && drv) = false ∧ drv = true) ↔ rdr = false ∧ drv = true := by
  cases rdr <;> cases drv <;> decide

/-! ### When the transmitter is not free (R207, R208) -/

theorem not_free_of_mode (h : s.fr.mode ≠ .idle) : transmitterFree s = false :=
  (txServable_eq s).symm.trans (busy_of_mode h)

theorem not_free_of_dir (h : s.line.dir.getLsbD 1 = false) : transmitterFree s = false :=
  decide_eq_false fun hfree => by rw [h] at hfree; exact absurd hfree.1 (by decide)

theorem not_free_of_holdoff (h : s.fr.holdoff ≠ 0) : transmitterFree s = false :=
  decide_eq_false fun hfree => h hfree.2.2

theorem free_of_idle (hd : s.line.dir = 2) (hm : s.fr.mode = .idle) (hh : s.fr.holdoff = 0) :
    transmitterFree s = true :=
  decide_eq_true ⟨by rw [hd]; decide, hm, hh⟩

/-! ### The clock stopped, and the quiet line -/

/-- Settles O39: a tick with the clock stopped is no tick. -/
theorem etuWithoutClockDoesNothing : Obligations.EtuWithoutClockDoesNothing := by
  unfold Obligations.EtuWithoutClockDoesNothing
  intro rdr s hi hc
  rw [exec_of_inited _ hi]
  exact congrArg _ (etu_of_clock_stopped rdr hc)

/-- Steps 1 and 3 of a tick are all of its start when no error signal is being counted. -/
theorem tickStart_of_no_signal (he : s.line.errsigCnt = 0) :
    tickStart s =
      { s with
        fr := { s.fr with holdoff := holdoffTick s.fr.holdoff }
        eng :=
          { s.eng with
            rstHoldCnt :=
              if s.phase = .resetAsserted ∧ s.lines.rst = true ∧ s.eng.rstHoldCnt ≠ 255 then
                s.eng.rstHoldCnt + 1
              else s.eng.rstHoldCnt } } := by
  have hline : errsigTick s.line = s.line := if_pos he
  have hwords : ¬ s.line.errsigCnt = 1 := by rw [he]; decide
  unfold tickStart
  rw [hline, if_neg hwords]
  simp [State.emits]

/-- An idle framer with the receiver closed looks for no start bit. -/
theorem framerStep_closed (lvl drv : Bool) (hm : s.fr.mode = .idle) (hd : s.line.dir.getLsbD 0 = false) :
    framerStep lvl drv s = s := by
  unfold framerStep
  rw [hm]
  exact if_neg (fun hstart => absurd (hd.symm.trans hstart.1) (by decide))

/-- The framer of a quiet line finds nothing to do, and there is nothing to serve. -/
theorem serviced_framerStep_quiet (lvl drv : Bool) (hm : s.fr.mode = .idle) (hd : s.line.dir = 0) :
    serviced (framerStep lvl drv s) = s := by
  rw [framerStep_closed _ _ hm (by rw [hd]; decide),
    serviced_busy _ (not_free_of_dir (by rw [hd]; decide))]

/-- The waiting time is not armed outside the exchange phases (R40 d). -/
theorem unarmed_of_no_exchange (h : Inv s) (hx : exchangePhase s.phase = false) : s.wt.ticks = 0 := by
  by_contra harmed
  rw [exchange_of_armed h harmed] at hx
  cases hx

/-- A hold count that may still go up, and the count that stays at 255, as one. -/
theorem holdCount_eq (h : s.phase = .resetAsserted ∧ s.lines.rst = true) :
    (if s.phase = .resetAsserted ∧ s.lines.rst = true ∧ s.eng.rstHoldCnt ≠ 255 then
        s.eng.rstHoldCnt + 1
      else s.eng.rstHoldCnt) =
      if s.eng.rstHoldCnt = 255 then 255 else s.eng.rstHoldCnt + 1 := by
  obtain ⟨hp, hr⟩ := h
  by_cases hfull : s.eng.rstHoldCnt = 255
  · rw [if_neg (fun hcount => hcount.2.2 hfull), if_pos hfull, hfull]
  · rw [if_pos ⟨hp, hr, hfull⟩, if_neg hfull]

/-- Settles O40: outside the exchange phases line and framer are quiet and the waiting time is not armed, so step
3 is all there is. -/
theorem etuOutsideTheExchangeCountsTheHold : Obligations.EtuOutsideTheExchangeCountsTheHold := by
  unfold Obligations.EtuOutsideTheExchangeCountsTheHold
  intro rdr s h hi hc hx
  obtain ⟨hline, hfr⟩ := h.bounded.quiet hx
  have hticks : s.wt.ticks = 0 := unarmed_of_no_exchange h hx
  have hmode : s.fr.mode = .idle := by rw [hfr]; rfl
  have hdir : s.line.dir = 0 := by rw [hline]; rfl
  have hfrTick : ({ s.fr with holdoff := holdoffTick s.fr.holdoff } : FramerRegs) = s.fr := by
    rw [hfr]; rfl
  rw [exec_etu rdr hi hc, serviced_framerStep_quiet _ _ (by exact hmode) (by rw [tickStart_dir, hdir]),
    tickStart_of_no_signal (by rw [hline]; rfl), hfrTick]
  unfold waitTick
  rw [if_pos (by exact hticks)]
  by_cases hreset : s.phase = .resetAsserted ∧ s.lines.rst = true
  · rw [if_pos hreset, holdCount_eq hreset]
  · rw [if_neg hreset, if_neg (fun hcount => hreset ⟨hcount.1, hcount.2.1⟩)]

/-! ### The receiver open (R206) -/

/-- An idle framer with the receiver open takes a low line for a start bit. -/
theorem framerStep_open (rdr drv : Bool) (hm : s.fr.mode = .idle) (hd : s.line.dir.getLsbD 0 = true) :
    framerStep (rdr && drv) drv s =
      if rdr = false ∧ drv = true then { s with fr := { s.fr with mode := .rx, slot := 1, shift := 0 } }
      else s := by
  unfold framerStep
  rw [hm]
  dsimp only
  unfold framerIdle
  simp only [hd, true_and, reader_low_iff]
  rfl

/-- Settles O41: with the receiver alone enabled there is nothing to serve, whether or not a start bit is found. -/
theorem etuFindsTheStartBit : Obligations.EtuFindsTheStartBit := by
  unfold Obligations.EtuFindsTheStartBit
  intro rdr s hi hc hm hd
  have hdir : (tickStart s).line.dir = 1 := (tickStart_dir s).trans hd
  dsimp only
  rw [exec_etu_of_not_tx rdr hi hc (by simp [hm]), framerStep_open (s := tickStart s) rdr _ hm (by rw [hdir]; decide),
    serviced_busy]
  apply not_free_of_dir
  split <;> exact hdir ▸ rfl

/-! ### The transmitter enabled (R207, R208) -/

/-- The hold-off stays above 0 for one tick more from 2 on, and has run out otherwise (R233). -/
theorem holdoffTick_eq_zero_iff (v : BitVec 8) : holdoffTick v = 0 ↔ v.toNat ≤ 1 := by
  refine ⟨le_one_of_holdoffTick, fun hle => ?_⟩
  rcases (by omega : v.toNat = 0 ∨ v.toNat = 1) with hv | hv
  · exact if_pos (BitVec.eq_of_toNat_eq hv)
  · rw [show v = 1 from BitVec.eq_of_toNat_eq hv]
    rfl

/-- Settles O43: the framer does nothing, so the tick is the service of the transmitter, by hold-off and owed
notification. -/
theorem etuServesTheTransmitter : Obligations.EtuServesTheTransmitter := by
  unfold Obligations.EtuServesTheTransmitter
  intro rdr s hi hc hm hd a
  have hdir : a.line.dir = 2 := (tickStart_dir s).trans hd
  have htick : exec (.etu rdr) s = .next (waitTick (serviced a)) := by
    rw [exec_etu rdr hi hc, framerStep_closed _ _ (by exact hm) (by rw [hdir]; decide)]
  have hfree (hle : s.fr.holdoff.toNat ≤ 1) : transmitterFree a = true :=
    free_of_idle hdir hm ((holdoffTick_eq_zero_iff _).2 hle)
  rw [htick]
  refine ⟨fun hheld => ?held, fun hle hpend => ?load, fun hle hpend => ?notify⟩
  case held =>
    have hne : a.fr.holdoff ≠ 0 := fun h0 => by
      have := (holdoffTick_eq_zero_iff _).1 h0
      omega
    rw [serviced_busy _ (not_free_of_holdoff hne)]
  case load =>
    have howed : ¬ a.fr.txrdyPend = true := by
      rw [show a.fr.txrdyPend = false from hpend]; decide
    unfold serviced
    rw [if_neg (fun h => howed h.1)]
  case notify =>
    unfold serviced
    rw [if_pos ⟨hpend, hfree hle⟩]
    rfl

/-! ### A transmitted slot (R204) -/

/-- Slot 10 is sampled with the engine's driver released, unless it signals an error itself (R201, R204). -/
theorem nackSample_ioIn (rdr : Bool) (s : State) :
    nackSample (ioIn rdr s) s.fr = if s.fr.slot = 10 then !(rdr && s.line.ioDrv) else s.fr.nackSeen := by
  unfold nackSample
  split
  · next hten =>
    have hout : ioOut s = s.line.ioDrv := by
      unfold ioOut
      rw [hten]
      cases s.line.ioDrv <;> simp
    rw [ioIn, hout]
  · rfl

/-- A transmitted slot: the next one, or the end of the character. -/
theorem framerStep_tx (lvl drv : Bool) (hm : s.fr.mode = .tx) :
    framerStep lvl drv s =
      if s.fr.slot.toNat < 11 + s.config.extraGuardN + (nackSample lvl s.fr).toNat then
        { s with fr := { s.fr with nackSeen := nackSample lvl s.fr, slot := s.fr.slot + 1 } }
      else
        { s with
          fr := { s.fr with nackSeen := nackSample lvl s.fr, mode := .idle, slot := 0, txrdyPend := true } } := by
  unfold framerStep
  rw [hm]
  dsimp only
  unfold framerTx framerTxRegs
  dsimp only
  by_cases hmore : s.fr.slot.toNat < 11 + s.config.extraGuardN + (nackSample lvl s.fr).toNat
  · rw [if_pos hmore, if_neg (Nat.not_le.2 hmore)]; rfl
  · rw [if_neg hmore, if_pos (Nat.not_lt.1 hmore)]; rfl

/-- Settles O44: below the last slot the framer stays busy and nothing is served. -/
theorem etuSamplesTheErrorSignal : Obligations.EtuSamplesTheErrorSignal := by
  unfold Obligations.EtuSamplesTheErrorSignal
  intro rdr s hi hc hm a nack
  have hnack : nackSample (ioIn rdr s) a.fr = nack := nackSample_ioIn rdr s
  rw [exec_etu rdr hi hc, framerStep_tx (s := a) _ _ hm, hnack]
  refine congrArg _ (congrArg _ ?_)
  by_cases hmore : s.fr.slot.toNat < 11 + s.config.extraGuardN + nack.toNat
  · rw [if_pos hmore, if_pos (by exact hmore)]
    exact serviced_busy _ (not_free_of_mode (by simp [a, hm]))
  · rw [if_neg hmore, if_neg (by exact hmore)]

/-! ### A guard slot (R205, R232) -/

/-- `GVIOL` (R232). -/
theorem gviol_eq (s : State) :
    gviol s = if exchangePhase s.phase then afterHalt .guardViolation s else contractErrSet s := by
  unfold gviol
  rw [halt_eq]
  rfl

/-- The halt clears the framer, but for the byte held (R144, R220). -/
theorem afterHalt_withFr (c : ErrCause) (s : State) {f : FramerRegs} (h : f.thr = s.fr.thr) :
    afterHalt c { s with fr := f } = afterHalt c s := by
  have hfr : quietFramer f = quietFramer s.fr := by unfold quietFramer; rw [h]
  have hregs : haltRegs c { s with fr := f } = haltRegs c s := by unfold haltRegs; rw [hfr]
  unfold afterHalt
  rw [hregs]

/-- A received character past its parity bit: a guard slot passes, and a low line is a violation. -/
theorem framerStep_guard (rdr drv : Bool) (hm : s.fr.mode = .rx) (hlate : 9 < s.fr.slot.toNat) :
    framerStep (rdr && drv) drv s =
      if rdr = false ∧ drv = true then gviol (guardSlotPassed s) else guardSlotPassed s := by
  unfold framerStep
  rw [hm]
  dsimp only
  unfold framerRx
  rw [if_neg (Nat.not_le.2 hlate), framerRxGuard_eq]
  simp only [reader_low_iff]

/-- The framer's registers after a guard slot. -/
theorem guardSlotPassed_eq (hslot : s.fr.slot = 10 ∨ s.fr.slot = 11) :
    guardSlotPassed s =
      { s with
        fr := if s.fr.slot = 10 then { s.fr with slot := 11 } else { s.fr with mode := .idle, slot := 0 } } := by
  unfold guardSlotPassed
  rcases hslot with h | h
  · rw [if_pos h, if_neg (by rw [h]; decide)]; rfl
  · rw [if_pos h, if_neg (by rw [h]; decide)]; rfl

theorem guardSlot_late (hslot : s.fr.slot = 10 ∨ s.fr.slot = 11) : 9 < s.fr.slot.toNat := by
  rcases hslot with h | h <;> rw [h] <;> decide

/-- Settles O45: the guard slot passes in any case; a violation in an exchange phase clears what is left of it and
ends the tick. -/
theorem etuCatchesTheGuardViolation : Obligations.EtuCatchesTheGuardViolation := by
  unfold Obligations.EtuCatchesTheGuardViolation
  intro rdr s hi hc hm hslot a g
  have hpassed : guardSlotPassed a = g := guardSlotPassed_eq (s := a) hslot
  rw [exec_etu_of_not_tx rdr hi hc (by simp [hm]),
    framerStep_guard (s := a) rdr _ hm (guardSlot_late hslot), hpassed]
  refine congrArg _ ?_
  by_cases hlow : rdr = false ∧ s.line.ioDrv = true
  · rw [if_pos hlow, if_pos hlow, gviol_eq]
    by_cases hx : exchangePhase s.phase = true
    · have hthr : g.fr.thr = a.fr.thr := by
        dsimp only [g]
        split <;> rfl
      rw [if_pos hx, if_pos (by exact hx), waitTick_serviced_halt]
      exact afterHalt_withFr .guardViolation a hthr
    · rw [if_neg hx, if_neg (by exact hx)]
  · rw [if_neg hlow, if_neg hlow]

end Sys2Proof.Proofs
end

section
/-! PROOFS. The character frame and its parity, for words of any width where that is as easy (44_framer.md R203,
R209): `xorBits` counts ones, it is additive, and a frame with any parity level has its bits in their places. -/

namespace Sys2Proof.Proofs

open Sys2Proof Sys2Proof.Machine

/-! ### The exclusive-or of the bits of a word (R10) -/

theorem foldl_xor_eq_countP (f : Nat → Bool) (l : List Nat) (acc : Bool) :
    l.foldl (fun a i => a ^^ f i) acc = (acc ^^ decide (l.countP f % 2 = 1)) := by
  induction l generalizing acc with
  | nil => simp
  | cons i l ih =>
    rw [List.foldl_cons, ih, List.countP_cons]
    rcases Nat.mod_two_eq_zero_or_one (l.countP f) with hp | hp <;> cases hf : f i <;>
      simp [Nat.add_mod, hp]

/-- It is 1 exactly when the number of ones is odd. -/
theorem xorBits_eq_countP {n : Nat} (v : BitVec n) :
    xorBits v = decide ((List.range n).countP (fun i => v.getLsbD i) % 2 = 1) :=
  (foldl_xor_eq_countP _ _ _).trans (Bool.false_xor _)

theorem foldl_xor_xor (f g : Nat → Bool) (l : List Nat) (a b : Bool) :
    l.foldl (fun acc i => acc ^^ (f i ^^ g i)) (a ^^ b) =
      (l.foldl (fun acc i => acc ^^ f i) a ^^ l.foldl (fun acc i => acc ^^ g i) b) := by
  induction l generalizing a b with
  | nil => rfl
  | cons i l ih =>
    have hswap : ((a ^^ b) ^^ (f i ^^ g i)) = ((a ^^ f i) ^^ (b ^^ g i)) := by
      rw [Bool.xor_assoc, Bool.xor_left_comm b, ← Bool.xor_assoc]
    simp only [List.foldl_cons]
    rw [← ih, hswap]

theorem xorBits_xor {n : Nat} (v w : BitVec n) : xorBits (v ^^^ w) = (xorBits v ^^ xorBits w) := by
  unfold xorBits
  simp only [BitVec.getLsbD_xor]
  exact foldl_xor_xor _ _ _ false false

/-- The topmost bit apart. -/
theorem xorBits_cons {n : Nat} (p : Bool) (v : BitVec n) : xorBits (BitVec.cons p v) = (p ^^ xorBits v) := by
  have hlow : ∀ acc, ∀ i ∈ List.range n, (acc ^^ (BitVec.cons p v).getLsbD i) = (acc ^^ v.getLsbD i) := by
    intro acc i hi
    rw [BitVec.getLsbD_cons, if_neg (Nat.ne_of_lt (List.mem_range.1 hi))]
  unfold xorBits
  rw [List.range_succ, List.foldl_append, List.foldl_ext _ _ _ hlow]
  simp [BitVec.getLsbD_cons, Bool.xor_comm]

/-! ### A frame with a parity level of its own (R203, R209) -/

/-- The ten slots of a character with the byte `b` and the parity level `p`, right or wrong. -/
def frameWith (p : Bool) (b : Byte) : BitVec 10 := BitVec.ofBool p ++ b ++ (0 : BitVec 1)

/-- The frame the engine builds has the even parity. -/
theorem charFrame_eq (b : Byte) : charFrame b = frameWith (xorBits b) b := rfl

theorem getLsbD_frameWith (p : Bool) (b : Byte) (k : Nat) :
    (frameWith p b).getLsbD k =
      if k = 0 then false else if k ≤ 8 then b.getLsbD (k - 1) else if k = 9 then p else false := by
  unfold frameWith
  rw [BitVec.getLsbD_append, BitVec.getLsbD_append]
  rcases Nat.lt_or_ge k 1 with h0 | h0
  · simp [Nat.lt_one_iff.1 h0]
  · have hk : ¬ k = 0 := by omega
    rcases Nat.lt_or_ge 8 k with h8 | h8
    · have hbit : k - 1 - 8 = 0 ↔ k = 9 := by omega
      by_cases h9 : k = 9
      · simp [h9]
      · simp [hk, Nat.not_le.2 h8, h9, hbit, show ¬ k - 1 < 8 by omega]
    · simp [hk, h8, show k - 1 < 8 by omega]

theorem charByte_frameWith (p : Bool) (b : Byte) : charByte (frameWith p b) = b := by
  apply BitVec.eq_of_getLsbD_eq
  intro i hi
  unfold charByte
  rw [BitVec.getLsbD_extractLsb', getLsbD_frameWith]
  simp [hi, show 1 + i ≤ 8 by omega]

/-- The nine bits that are checked are the byte and the parity level above it. -/
theorem frameWith_checked (p : Bool) (b : Byte) :
    (frameWith p b).extractLsb' 1 9 = BitVec.cons p b := by
  apply BitVec.eq_of_getLsbD_eq
  intro i hi
  rw [BitVec.getLsbD_extractLsb', getLsbD_frameWith, BitVec.getLsbD_cons]
  rcases (by omega : i = 8 ∨ i < 8) with h8 | h8
  · simp [h8]
  · simp [hi, Nat.ne_of_lt h8, show 1 + i ≤ 8 by omega]

/-- The check finds a parity level other than the byte's own. -/
theorem charParityErr_frameWith (p : Bool) (b : Byte) :
    charParityErr (frameWith p b) = (p != xorBits b) := by
  unfold charParityErr
  rw [frameWith_checked, xorBits_cons]

/-- One wrong bit among the nine changes the check. -/
theorem charParityErr_flip (shift : BitVec 10) (i : Fin 9) :
    charParityErr (shift ^^^ (1#10 <<< (i.val + 1))) = !charParityErr shift := by
  have hone : xorBits ((1#10 <<< (i.val + 1)).extractLsb' 1 9) = true := by revert i; decide
  unfold charParityErr
  rw [BitVec.extractLsb'_xor, xorBits_xor, hone, Bool.xor_true]

/-- The check by counting (R209). -/
theorem charParityErr_iff (shift : BitVec 10) :
    charParityErr shift = true ↔ (List.range 9).countP (fun i => shift.getLsbD (i + 1)) % 2 = 1 := by
  have hbits : (List.range 9).countP (fun i => (shift.extractLsb' 1 9).getLsbD i) =
      (List.range 9).countP (fun i => shift.getLsbD (i + 1)) := by
    refine List.countP_congr fun i hi => ?_
    simp [List.mem_range.1 hi, Nat.add_comm 1 i]
  unfold charParityErr
  rw [xorBits_eq_countP, hbits, decide_eq_true_eq]

theorem getLsbD_charByte (shift : BitVec 10) (k : Nat) :
    (charByte shift).getLsbD k = (decide (k < 8) && shift.getLsbD (k + 1)) := by
  unfold charByte
  rw [BitVec.getLsbD_extractLsb', Nat.add_comm 1 k]

/-- Settles O48: a frame as built has the right parity level, and one wrong bit changes the check. -/
theorem frameParityFindsOneWrongBit : Obligations.FrameParityFindsOneWrongBit := by
  unfold Obligations.FrameParityFindsOneWrongBit
  have hright (b : Byte) : charParityErr (charFrame b) = false := by
    rw [charFrame_eq, charParityErr_frameWith, bne_self_eq_false]
  refine ⟨fun b k => ?_, fun shift => ⟨charParityErr_iff shift, getLsbD_charByte shift⟩,
    fun b => ⟨hright b, charByte_frameWith _ b, fun i => ?_⟩⟩
  · rw [charFrame_eq, getLsbD_frameWith, xorBits_eq_countP]
  · rw [charParityErr_flip, hright, Bool.not_false]

end Sys2Proof.Proofs
end

section
/-! PROOFS. Runs of ticks on a line the engine does not pull low, in which the framer and the waiting time alone
move: the slots of a transmitted character (44_framer.md R203, R204). -/

namespace Sys2Proof.Proofs

open Sys2Proof Sys2Proof.Machine

variable {s t u : State}

/-! ### Runs of events one after another -/

theorem runEvents_append {is js : List Instr} (h : runEvents is s = .next t) :
    runEvents (is ++ js) s = runEvents js t := by
  induction is generalizing s with
  | nil =>
    rw [runEvents] at h
    injection h with h
    rw [h, List.nil_append]
  | cons i is ih =>
    rw [List.cons_append, runEvents]
    rw [runEvents] at h
    cases hx : exec i s with
    | next v => rw [hx] at h; exact ih h
    | fault r => rw [hx] at h; cases h
    | refused r => rw [hx] at h; cases h

/-- The last event of a run. -/
theorem runEvents_concat {is : List Instr} {i : Instr} (h : runEvents is s = .next t)
    (hi : exec i t = .next u) : runEvents (is ++ [i]) s = .next u := by
  rw [runEvents_append h, runEvents_cons hi, runEvents]

/-! ### Ticks on a released line -/

/-- A created handle with the clock running, no reset being held and the line released. -/
structure Ticking (s : State) : Prop where
  inited : s.ident.inited = true
  clk : s.lines.clk = true
  phase : s.phase ≠ .resetAsserted
  released : s.line.ioDrv = true
  noSignal : s.line.errsigCnt = 0

/-- `n` ticks of the waiting time later, with the framer's registers as given. -/
def afterTicks (n : Nat) (f : FramerRegs) (s : State) : State := { waitTicks n s with fr := f }

theorem noExpiry_of_succ {n : Nat} (h : noExpiry (n + 1) s) : noExpiry n s :=
  h.imp id (fun hlt => by omega)

theorem Ticking.withFramer (h : Ticking s) (f : FramerRegs) : Ticking { s with fr := f } :=
  ⟨h.inited, h.clk, h.phase, h.released, h.noSignal⟩

theorem Ticking.waited (h : Ticking s) {n : Nat} (hw : noExpiry n s) : Ticking (waitTicks n s) := by
  obtain ⟨hid, hph, hln, hline, -, -, -, -⟩ := waitTicks_frame s n hw
  constructor
  case inited => exact hid ▸ h.inited
  case clk => exact hln ▸ h.clk
  case phase => exact hph ▸ h.phase
  case released => exact hline ▸ h.released
  case noSignal => exact hline ▸ h.noSignal

theorem Ticking.later (h : Ticking s) {n : Nat} (hw : noExpiry n s) (f : FramerRegs) :
    Ticking (afterTicks n f s) := (h.waited hw).withFramer f

/-- The first counters of a tick, when no reset is held. -/
theorem tickStart_of_no_hold (hp : s.phase ≠ .resetAsserted) (he : s.line.errsigCnt = 0) :
    tickStart s = { s with fr := { s.fr with holdoff := holdoffTick s.fr.holdoff } } := by
  rw [tickStart_of_no_signal he, if_neg (fun hhold => hp hhold.1)]

/-- A tick in which the engine sends no character: the framer sees the reader's level. -/
theorem Ticking.exec_tick (h : Ticking s) (hm : s.fr.mode ≠ .tx) (rdr : Bool) :
    exec (.etu rdr) s =
      .next
        (waitTick
          (serviced
            (framerStep rdr true { s with fr := { s.fr with holdoff := holdoffTick s.fr.holdoff } }))) := by
  rw [exec_etu_of_not_tx rdr h.inited h.clk hm, h.released, Bool.and_true,
    tickStart_of_no_hold h.phase h.noSignal]

/-- One tick more, when the framer goes from `f` with its hold-off counted to `g` and stays busy. -/
theorem Ticking.exec_busy {n : Nat} {f g : FramerRegs} {rdr : Bool} (h : Ticking s)
    (hw : noExpiry (n + 1) s)
    (hstep : framerStep (ioIn rdr (afterTicks n f s)) true
        (afterTicks n { f with holdoff := holdoffTick f.holdoff } s) = afterTicks n g s)
    (hbusy : g.mode ≠ .idle) :
    exec (.etu rdr) (afterTicks n f s) = .next (afterTicks (n + 1) g s) := by
  have hu : Ticking (afterTicks n f s) := h.later (noExpiry_of_succ hw) f
  have hstart : tickStart (afterTicks n f s) =
      afterTicks n { f with holdoff := holdoffTick f.holdoff } s :=
    tickStart_of_no_hold hu.phase hu.noSignal
  rw [exec_etu rdr hu.inited hu.clk, hu.released, hstart, hstep, serviced_busy _ (not_free_of_mode hbusy)]
  exact congrArg _ (waitTicks_succ s n f g hw)

/-- A counter that stops at 0, as a number. -/
theorem holdoffTick_ofNat {n : Nat} (h : n < 256) :
    holdoffTick (BitVec.ofNat 8 n) = BitVec.ofNat 8 (n - 1) := by
  unfold holdoffTick
  rcases n with _ | m
  · rfl
  · have hne : BitVec.ofNat 8 (m + 1) ≠ 0 := fun h0 => by
      have := congrArg BitVec.toNat h0
      simp at this
      omega
    rw [if_neg hne, BitVec.ofNat_add, Nat.add_sub_cancel]
    exact BitVec.add_sub_cancel _ _

/-- The hold-off a number of ticks on. -/
def holdAfter (n : Nat) (f : FramerRegs) : BitVec 8 := BitVec.ofNat 8 (f.holdoff.toNat - n)

theorem holdoffTick_holdAfter (n : Nat) (f : FramerRegs) :
    holdoffTick (holdAfter n f) = holdAfter (n + 1) f := by
  have hlt := f.holdoff.isLt
  exact holdoffTick_ofNat (by omega)

theorem holdAfter_zero (f : FramerRegs) : holdAfter 0 f = f.holdoff := by
  rw [holdAfter, Nat.sub_zero, BitVec.ofNat_toNat, BitVec.setWidth_eq]

/-! ### A transmitted character (R203, R204) -/

/-- The framer in slot `k` of a character being transmitted. -/
def sendingSlot (k : Nat) (f : FramerRegs) : FramerRegs :=
  { f with slot := BitVec.ofNat 5 k, holdoff := holdAfter k f }

/-- A slot number below 32, as a number. -/
theorem slot_toNat {k : Nat} (h : k < 32) : (BitVec.ofNat 5 k).toNat = k := by
  rw [BitVec.toNat_ofNat, Nat.mod_eq_of_lt h]

/-- With both sides releasing the line no error signal is seen (R204). -/
theorem nackSample_released (h : s.line.ioDrv = true) (hn : s.fr.nackSeen = false) :
    nackSample (ioIn true s) s.fr = s.fr.nackSeen := by
  rw [nackSample_ioIn, h, hn, Bool.and_true, Bool.not_true, ite_self]

/-- A slot before the last one passes, when no error signal is seen. -/
theorem framerStep_early {lvl drv : Bool} (hm : s.fr.mode = .tx) (hk : s.fr.slot.toNat < 11)
    (hn : nackSample lvl s.fr = s.fr.nackSeen) :
    framerStep lvl drv s = { s with fr := { s.fr with slot := s.fr.slot + 1 } } := by
  rw [framerStep_tx lvl drv hm, if_pos (by omega), hn]

theorem Ticking.exec_sending (h : Ticking s) {k : Nat} (hw : noExpiry (k + 1) s) (hk : k < 11)
    (hm : s.fr.mode = .tx) (hn : s.fr.nackSeen = false) :
    exec (.etu true) (afterTicks k (sendingSlot k s.fr) s) =
      .next (afterTicks (k + 1) (sendingSlot (k + 1) s.fr) s) := by
  have hu : Ticking (afterTicks k (sendingSlot k s.fr) s) := h.later (noExpiry_of_succ hw) _
  have hslot : (BitVec.ofNat 5 k).toNat < 11 := by rwa [slot_toNat (by omega)]
  have hnext : ({ sendingSlot k s.fr with
      slot := BitVec.ofNat 5 k + 1, holdoff := holdoffTick (holdAfter k s.fr) } : FramerRegs) =
      sendingSlot (k + 1) s.fr := by
    rw [holdoffTick_holdAfter, sendingSlot, sendingSlot, BitVec.ofNat_add]
    rfl
  refine h.exec_busy hw ?_ (by simp [sendingSlot, hm])
  rw [framerStep_early (by exact hm) (by exact hslot) (by exact nackSample_released hu.released hn)]
  exact congrArg (afterTicks k · s) hnext

/-- The run of a transmitted character up to any of its slots. -/
theorem Ticking.runEvents_sending (h : Ticking s) (hm : s.fr.mode = .tx) (hslot : s.fr.slot = 0)
    (hn : s.fr.nackSeen = false) (k : Nat) (hk : k ≤ 11) (hw : noExpiry k s) :
    runEvents (etus k true) s = .next (afterTicks k (sendingSlot k s.fr) s) := by
  induction k with
  | zero =>
    have hstart : sendingSlot 0 s.fr = s.fr := by
      rw [sendingSlot, holdAfter_zero, show BitVec.ofNat 5 0 = s.fr.slot from hslot.symm]
    rw [hstart]
    rfl
  | succ k ih =>
    have hrun := ih (by omega) (noExpiry_of_succ hw)
    rw [etus, List.replicate_succ']
    exact runEvents_concat hrun (h.exec_sending hw (by omega) hm hn)

/-- The level in a slot is the bit of the frame there, and the line is released above it (R201, R203). -/
theorem ioOut_sending {k : Nat} {b : Byte} (hdrv : t.line.ioDrv = true) (hm : t.fr.mode = .tx)
    (hslot : t.fr.slot.toNat = k) (hshift : t.fr.shift = charFrame b) : ioOut t = lineLevel b k := by
  unfold ioOut lineLevel
  rw [hdrv, hm, hslot, hshift, charFrame_eq, getLsbD_frameWith]
  by_cases hk : k ≤ 9
  · have h9 : ¬ k ≤ 8 → k = 9 := by omega
    by_cases h8 : k ≤ 8 <;> simp_all
  · simp [hk, show ¬ k = 0 by omega, show ¬ k ≤ 8 by omega, show ¬ k = 9 by omega]

/-- Settles O47: the slots one after another, and the level read off the last of them. -/
theorem transmittedCharacterFillsItsSlots : Obligations.TransmittedCharacterFillsItsSlots := by
  unfold Obligations.TransmittedCharacterFillsItsSlots
  intro b s k hi hc hp hdrv herr hm hslot hshift hn hk hw
  have h : Ticking s := ⟨hi, hc, hp, hdrv, herr⟩
  refine ⟨_, h.runEvents_sending hm hslot hn k hk hw, rfl, ?_⟩
  exact ioOut_sending (h.later hw _).released hm (slot_toNat (by omega)) hshift

end Sys2Proof.Proofs
end

section
/-! PROOFS. A character from the reader (44_framer.md R205, R206, R209, R212): its ten slots fill the shifter and
perform `RXB`, and in `TPDU_EXCHANGE` its two guard slots follow (30_encoding.md R90). -/

namespace Sys2Proof.Proofs

open Sys2Proof Sys2Proof.Machine

variable {s : State}

/-! ### The shifter (R205) -/

/-- A level at one place. -/
theorem getLsbD_level {i : Nat} (hi : i < 10) (level : Bool) (j : Nat) :
    ((BitVec.ofBool level).setWidth 10 <<< i).getLsbD j = (decide (j = i) && level) := by
  rw [BitVec.getLsbD_shiftLeft, BitVec.getLsbD_setWidth, BitVec.getLsbD_ofBool]
  rcases Nat.lt_trichotomy j i with hlt | heq | hgt
  · simp [hlt, Nat.ne_of_lt hlt]
  · simp [heq, hi]
  · simp [Nat.ne_of_gt hgt, show ¬ j - i = 0 by omega]

theorem getLsbD_setSlot (shift : BitVec 10) {i : Nat} (hi : i < 10) (level : Bool) (j : Nat) :
    (setSlot shift i level).getLsbD j = if j = i then level else shift.getLsbD j := by
  have hmask : (1#10 <<< i).getLsbD j = (decide (j = i) && true) := getLsbD_level hi true j
  unfold setSlot
  rw [BitVec.getLsbD_or, BitVec.getLsbD_and, BitVec.getLsbD_not, hmask, getLsbD_level hi]
  rcases Nat.lt_or_ge j 10 with hj | hj
  · by_cases heq : j = i <;> simp [heq, hj]
  · simp [BitVec.getLsbD_of_ge shift j hj, show ¬ j = i by omega]

/-- The lowest `n` slots of a frame, with zeros for the slots still to come. -/
def slotsBelow (n : Nat) (f : BitVec 10) : BitVec 10 := (f.setWidth n).setWidth 10

theorem getLsbD_slotsBelow (n : Nat) (f : BitVec 10) (i : Nat) :
    (slotsBelow n f).getLsbD i = (decide (i < n) && f.getLsbD i) := by
  unfold slotsBelow
  rw [BitVec.getLsbD_setWidth, BitVec.getLsbD_setWidth]
  rcases Nat.lt_or_ge i 10 with h | h
  · simp [h]
  · simp [BitVec.getLsbD_of_ge _ _ h]

/-- A clear shifter holds the start bit. -/
theorem slotsBelow_one {f : BitVec 10} (h : f.getLsbD 0 = false) : slotsBelow 1 f = 0 := by
  apply BitVec.eq_of_getLsbD_eq
  intro i hi
  rw [getLsbD_slotsBelow]
  by_cases h0 : i = 0
  · rw [h0, h]; rfl
  · simp [h0]

theorem slotsBelow_all (f : BitVec 10) : slotsBelow 10 f = f := BitVec.setWidth_setWidth_of_le f (by omega)

/-- One slot more. -/
theorem setSlot_slotsBelow {n : Nat} (hn : n < 10) (f : BitVec 10) :
    setSlot (slotsBelow n f) n (f.getLsbD n) = slotsBelow (n + 1) f := by
  apply BitVec.eq_of_getLsbD_eq
  intro i hi
  rw [getLsbD_setSlot _ hn, getLsbD_slotsBelow, getLsbD_slotsBelow]
  by_cases hin : i = n
  · simp [hin]
  · have hlt : i < n + 1 ↔ i < n := by omega
    simp only [hin, hlt, if_false]

/-! ### The ticks before the parity bit -/

/-- A data bit of a received character. -/
theorem framerStep_data (lvl drv : Bool) (hm : s.fr.mode = .rx) (hk : s.fr.slot.toNat < 9) :
    framerStep lvl drv s =
      { s with
        fr := { s.fr with shift := setSlot s.fr.shift s.fr.slot.toNat lvl, slot := s.fr.slot + 1 } } := by
  have hne : ¬ s.fr.slot = 9 := fun h => by rw [h] at hk; exact absurd hk (by decide)
  unfold framerStep
  rw [hm]
  dsimp only
  rw [framerRx, if_pos (by omega), framerRxBit]
  exact if_neg hne

/-- The parity bit of a received character performs `RXB`. -/
theorem framerStep_parity (lvl drv : Bool) (hm : s.fr.mode = .rx) (hk : s.fr.slot = 9) :
    framerStep lvl drv s =
      rxb (charParityErr (setSlot s.fr.shift 9 lvl)) (charByte (setSlot s.fr.shift 9 lvl))
        { s with
          fr :=
            { s.fr with
              shift := setSlot s.fr.shift 9 lvl, holdoff := turnaroundHoldoff s.config s.fr.holdoff
              slot := 10 } } := by
  unfold framerStep
  rw [hm]
  dsimp only
  rw [framerRx, if_pos (by rw [hk]; decide), framerRxBit, hk]
  rfl

/-- The framer with the lowest `n` slots of a frame received. -/
def receivedSlots (n : Nat) (frame : BitVec 10) (f : FramerRegs) : FramerRegs :=
  { f with mode := .rx, slot := BitVec.ofNat 5 n, shift := slotsBelow n frame, holdoff := holdAfter n f }

/-- The ticks of the lowest `n` slots of a frame. -/
def slotTicks (n : Nat) (frame : BitVec 10) : List Instr :=
  (List.range n).map fun i => .etu (frame.getLsbD i)

theorem slotTicks_succ (n : Nat) (frame : BitVec 10) :
    slotTicks (n + 1) frame = slotTicks n frame ++ [.etu (frame.getLsbD n)] := by
  rw [slotTicks, List.range_succ, List.map_append]
  rfl

/-- The start bit (R206). -/
theorem Ticking.exec_start (h : Ticking s) {frame : BitVec 10} (hw : noExpiry 1 s)
    (hm : s.fr.mode = .idle) (hd : s.line.dir = 1) (h0 : frame.getLsbD 0 = false) :
    exec (.etu false) s = .next (afterTicks 1 (receivedSlots 1 frame s.fr) s) := by
  have hframer : receivedSlots 1 frame s.fr =
      { s.fr with mode := .rx, slot := 1, shift := 0, holdoff := holdoffTick s.fr.holdoff } := by
    rw [receivedSlots, slotsBelow_one h0, ← holdoffTick_holdAfter, holdAfter_zero]
    rfl
  have hstep := framerStep_open (s := afterTicks 0 { s.fr with holdoff := holdoffTick s.fr.holdoff } s)
    false true hm (by show s.line.dir.getLsbD 0 = true; rw [hd]; decide)
  rw [hframer]
  refine h.exec_busy (n := 0) (f := s.fr) hw ?_ (by simp)
  rw [ioIn_of_not_tx _ (by show s.fr.mode ≠ .tx; simp [hm])]
  exact hstep

/-- A data bit (R205). -/
theorem Ticking.exec_data (h : Ticking s) {n : Nat} (frame : BitVec 10) (hw : noExpiry (n + 1) s)
    (hn : n < 9) :
    exec (.etu (frame.getLsbD n)) (afterTicks n (receivedSlots n frame s.fr) s) =
      .next (afterTicks (n + 1) (receivedSlots (n + 1) frame s.fr) s) := by
  have hu : Ticking (afterTicks n (receivedSlots n frame s.fr) s) := h.later (noExpiry_of_succ hw) _
  have hslot : (BitVec.ofNat 5 n).toNat = n := slot_toNat (by omega)
  have hnext : ({ receivedSlots n frame s.fr with
      shift := setSlot (slotsBelow n frame) n (frame.getLsbD n), slot := BitVec.ofNat 5 n + 1
      holdoff := holdoffTick (holdAfter n s.fr) } : FramerRegs) = receivedSlots (n + 1) frame s.fr := by
    rw [holdoffTick_holdAfter, setSlot_slotsBelow (by omega), receivedSlots, receivedSlots, BitVec.ofNat_add]
    rfl
  refine h.exec_busy hw ?_ (by simp [receivedSlots])
  rw [ioIn_of_not_tx _ (by exact nofun), hu.released, Bool.and_true,
    framerStep_data _ _ (by rfl) (by show (BitVec.ofNat 5 n).toNat < 9; omega)]
  rw [← hnext]
  simp only [afterTicks, receivedSlots, hslot]

/-- The start bit and the data bits, up to any of them. -/
theorem Ticking.runEvents_slots (h : Ticking s) {frame : BitVec 10} (hm : s.fr.mode = .idle)
    (hd : s.line.dir = 1) (h0 : frame.getLsbD 0 = false) (n : Nat) (hpos : 1 ≤ n) (hn : n ≤ 9)
    (hw : noExpiry n s) :
    runEvents (slotTicks n frame) s = .next (afterTicks n (receivedSlots n frame s.fr) s) := by
  induction n, hpos using Nat.le_induction with
  | base =>
    rw [slotTicks_succ, h0]
    exact runEvents_concat rfl (h.exec_start hw hm hd h0)
  | succ n hpos ih =>
    rw [slotTicks_succ]
    exact runEvents_concat (ih (by omega) (noExpiry_of_succ hw)) (h.exec_data frame hw (by omega))

/-! ### The parity bit (R205, R209) -/

/-- `RXB` performed on a created handle (R213). -/
theorem performed_rxb (perr : Bool) (b : Byte) (h : s.ident.inited = true) :
    performed (.rxb perr b) s = rxb perr b s := by
  unfold performed
  rw [exec_of_inited _ h]
  rfl

/-- The framer with all ten slots of a frame received, the hold-off kept for the turnaround (R212). -/
def receivedFrame (c : Config) (frame : BitVec 10) (f : FramerRegs) : FramerRegs :=
  { f with
    mode := .rx, slot := 10, shift := frame
    holdoff := BitVec.ofNat 8 (max (f.holdoff.toNat - 10) (c.turnaroundEtu - 10)) }

theorem turnaroundHoldoff_holdAfter (c : Config) (n : Nat) (f : FramerRegs) :
    turnaroundHoldoff c (holdAfter n f) = BitVec.ofNat 8 (max (f.holdoff.toNat - n) (c.turnaroundEtu - 10)) := by
  have hlt := f.holdoff.isLt
  rw [turnaroundHoldoff, holdAfter, BitVec.toNat_ofNat, Nat.mod_eq_of_lt (by omega)]

/-- The tick of the parity bit: `RXB` of the frame's byte, its parity checked, and the tick's own count. -/
theorem Ticking.exec_parity (h : Ticking s) (frame : BitVec 10) (f : FramerRegs) {c : Config}
    (hc : s.config = c) :
    exec (.etu (frame.getLsbD 9)) { s with fr := receivedSlots 9 frame f } =
      .next
        (waitTick
          (performed (.rxb (charParityErr frame) (charByte frame))
            { s with fr := receivedFrame c frame f })) := by
  subst hc
  have hshift : setSlot (slotsBelow 9 frame) 9 (frame.getLsbD 9) = frame :=
    (setSlot_slotsBelow (by decide) frame).trans (slotsBelow_all frame)
  have hframer : ({ receivedSlots 9 frame f with
      shift := frame, holdoff := turnaroundHoldoff s.config (holdoffTick (holdAfter 9 f))
      slot := 10 } : FramerRegs) = receivedFrame s.config frame f := by
    rw [holdoffTick_holdAfter, turnaroundHoldoff_holdAfter]
    rfl
  have hstep := framerStep_parity
    (s := { s with fr := { receivedSlots 9 frame f with holdoff := holdoffTick (holdAfter 9 f) } })
    (frame.getLsbD 9) true rfl rfl
  have hbusy : transmitterFree (rxb (charParityErr frame) (charByte frame)
      { s with fr := receivedFrame s.config frame f }) = false :=
    (txServable_eq _).symm.trans (rxb_busy (by exact nofun) _ _)
  dsimp only [receivedSlots] at hstep hframer
  rw [hshift, hframer] at hstep
  refine ((h.withFramer (receivedSlots 9 frame f)).exec_tick (by exact nofun) _).trans ?_
  dsimp only [receivedSlots]
  rw [hstep, serviced_busy _ hbusy, performed_rxb _ _ (by exact h.inited)]

/-- The ten slots of a frame with its start bit. -/
theorem Ticking.runEvents_frame (h : Ticking s) {frame : BitVec 10} (hm : s.fr.mode = .idle)
    (hd : s.line.dir = 1) (h0 : frame.getLsbD 0 = false) (hw : noExpiry 9 s) :
    runEvents (slotTicks 10 frame) s =
      .next
        (waitTick
          (performed (.rxb (charParityErr frame) (charByte frame))
            (afterTicks 9 (receivedFrame s.config frame s.fr) s))) := by
  obtain ⟨-, -, -, -, -, hconfig, -, -⟩ := waitTicks_frame s 9 hw
  rw [slotTicks_succ]
  exact runEvents_concat (h.runEvents_slots hm hd h0 9 (by decide) (le_refl 9) hw)
    ((h.waited hw).exec_parity frame s.fr hconfig)

/-! ### A character below half the waiting time (R236) -/

/-- The waiting time at another count. -/
def withCount (c : BitVec 24) (s : State) : State := { s with wt := { s.wt with cnt := c } }

theorem waitTick_counts (h : 2 * (s.wt.cnt.toNat + 1) < s.wt.ticks.toNat) :
    waitTick s = withCount (s.wt.cnt + 1) s := by
  have harmed : s.wt.ticks ≠ 0 := fun h0 => by rw [h0] at h; exact absurd h (Nat.not_lt_zero _)
  rw [(waitTick_below s harmed (by omega)).2, if_neg (by omega)]
  rfl

theorem waitTicks_counts (n : Nat) (h : 2 * (s.wt.cnt.toNat + n) < s.wt.ticks.toNat) :
    waitTicks n s = withCount (s.wt.cnt + BitVec.ofNat 24 n) s := by
  induction n with
  | zero => simp [waitTicks, withCount]
  | succ n ih =>
    obtain ⟨-, -, -, -, -, -, hticks, hcnt⟩ := waitTicks_frame s n (Or.inr (by omega))
    have harmed : s.wt.ticks ≠ 0 := fun h0 => by rw [h0] at h; exact absurd h (Nat.not_lt_zero _)
    rw [waitTicks, waitTick_counts (by rw [hticks, hcnt harmed]; omega), ih (by omega), BitVec.ofNat_add,
      ← BitVec.add_assoc]
    rfl

theorem afterTicks_below_half {n : Nat} (f : FramerRegs) (h : 2 * (s.wt.cnt.toNat + n) < s.wt.ticks.toNat) :
    afterTicks n f s = { withCount (s.wt.cnt + BitVec.ofNat 24 n) s with fr := f } := by
  rw [afterTicks, waitTicks_counts n h]

/-! ### The guard time with the reader silent (R205, R235) -/

/-- A created handle in the guard time of a received character, with the receiver alone enabled and the waiting
time armed and below its half for `n` ticks more. -/
structure InGuardTime (n : Nat) (s : State) : Prop where
  inited : s.ident.inited = true
  clk : s.lines.clk = true
  phase : s.phase ≠ .resetAsserted
  mode : s.fr.mode = .rx
  dir : s.line.dir = 1
  belowHalf : 2 * (s.wt.cnt.toNat + n) < s.wt.ticks.toNat

/-- What leaves on the command port in the tick that ends an error signal (R235). -/
def signalEnd (id : Ident) (l : LineCtl) : List CmdWord :=
  if l.errsigCnt = 1 then [driveIoWord id true] else []

/-- A tick in the guard time: the counters, and the framer with its hold-off counted and then as `step` says. -/
def guardTick (step : FramerRegs → FramerRegs) (s : State) : State :=
  ({ s with
      line := errsigTick s.line
      wt := { s.wt with cnt := s.wt.cnt + 1 }
      fr := step { s.fr with holdoff := holdoffTick s.fr.holdoff } } : State).emits
    (signalEnd s.ident s.line)

/-- Slot 10 passes. -/
def toSlot11 (f : FramerRegs) : FramerRegs := { f with slot := 11 }

/-- Slot 11 passes, the last one. -/
def toIdle (f : FramerRegs) : FramerRegs := { f with mode := .idle, slot := 0 }

theorem InGuardTime.tickStart_withFr {n : Nat} (h : InGuardTime n s) (f : FramerRegs) :
    { tickStart s with fr := f } =
      ({ s with line := errsigTick s.line, fr := f } : State).emits (signalEnd s.ident s.line) := by
  unfold tickStart
  rw [if_neg (fun hhold => h.phase hhold.1)]
  rfl

/-- With the reader silent a guard slot passes, and nothing is served. -/
theorem InGuardTime.exec {n : Nat} (h : InGuardTime (n + 1) s) {step : FramerRegs → FramerRegs}
    (hslot : (s.fr.slot = 10 ∧ step = toSlot11) ∨ (s.fr.slot = 11 ∧ step = toIdle)) :
    Machine.exec (.etu true) s = .next (guardTick step s) := by
  have hguard := etuCatchesTheGuardViolation true s h.inited h.clk h.mode (hslot.imp And.left And.left)
  have hstep : (if s.fr.slot = 10 then { (tickStart s).fr with slot := 11 }
      else { (tickStart s).fr with mode := .idle, slot := 0 }) = step (tickStart s).fr := by
    rcases hslot with ⟨h10, rfl⟩ | ⟨h11, rfl⟩
    · rw [if_pos h10]; rfl
    · rw [if_neg (by rw [h11]; decide)]; rfl
  have hdir : (errsigTick s.line).dir = 1 := (tickStart_dir s).trans h.dir
  have hbelow := h.belowHalf
  dsimp only at hguard
  rw [if_neg (by simp), hstep, h.tickStart_withFr,
    serviced_busy _ (not_free_of_dir (by show (errsigTick s.line).dir.getLsbD 1 = false; rw [hdir]; decide)),
    waitTick_counts (by show 2 * (s.wt.cnt.toNat + 1) < s.wt.ticks.toNat; omega)] at hguard
  exact hguard

/-- The two ticks of the guard time. -/
theorem InGuardTime.runEvents (h : InGuardTime 2 s) (hslot : s.fr.slot = 10) :
    runEvents (etus 2 true) s = .next (guardTick toIdle (guardTick toSlot11 s)) := by
  have hbelow := h.belowHalf
  have hcnt : (s.wt.cnt + 1).toNat = s.wt.cnt.toNat + 1 :=
    (waitTick_below s (fun h0 => by rw [h0] at hbelow; exact absurd hbelow (Nat.not_lt_zero _)) (by omega)).1
  have hnext : InGuardTime 1 (guardTick toSlot11 s) := by
    constructor
    case inited => exact h.inited
    case clk => exact h.clk
    case phase => exact h.phase
    case mode => exact h.mode
    case dir => exact (tickStart_dir s).trans h.dir
    case belowHalf =>
      show 2 * ((s.wt.cnt + 1).toNat + 1) < s.wt.ticks.toNat
      omega
  show Machine.runEvents [.etu true, .etu true] s = _
  rw [runEvents_cons (h.exec (Or.inl ⟨hslot, rfl⟩)), runEvents_cons (hnext.exec (Or.inr ⟨rfl, rfl⟩)),
    Machine.runEvents]

/-! ### The whole character in the exchange (R90) -/

theorem frameWith_start (p : Bool) (b : Byte) : (frameWith p b).getLsbD 0 = false := getLsbD_frameWith p b 0

/-- The events of a character are the ticks of its frame and two more. -/
theorem rxCharWith_eq (b : Byte) (p : Bool) :
    rxCharWith b p = slotTicks 10 (frameWith p b) ++ etus 2 true := by
  have hlevels : charLevels b p = (List.range 9).map fun i => (frameWith p b).getLsbD (i + 1) := by
    rw [List.range_succ, List.map_append, charLevels]
    refine congrArg₂ _ (List.map_congr_left fun i hi => ?_) ?_
    · have hlt : i < 8 := List.mem_range.1 hi
      rw [getLsbD_frameWith, if_neg (by omega), if_pos (by omega), Nat.add_sub_cancel]
    · rw [List.map_singleton, getLsbD_frameWith]
      rfl
  rw [rxCharWith, hlevels, slotTicks, List.range_succ_eq_map (n := 9), List.map_cons, List.map_map,
    List.map_map, frameWith_start]
  rfl

/-- A character taken in the exchange: the retry count, the waiting time's new count, line and framer. -/
def characterTaken (retry : BitVec 4) (line : LineCtl) (f : FramerRegs) (count : BitVec 24) (s : State) : State :=
  { s with
    seq := { s.seq with retryCnt := retry }
    wt := { s.wt with cnt := count, half := false }
    line := line
    fr := f }

theorem rxb_good_taken (b : Byte) (f : FramerRegs) (c : BitVec 24) (hp : s.phase = .tpduExchange) :
    rxb false b { withCount c s with fr := f } =
      (characterTaken 0 s.line f 0 s).emits [resetWtWord s.ident, rxDeliverWord s.ident b] := by
  rw [rxb_good_exchange b (by exact hp), afterRxGood, afterRxRestart, emits_emits]
  rfl

/-- The line while the error signal is sent (R135). -/
def signalLine (c : Config) (l : LineCtl) : LineCtl :=
  { l with ioDrv := false, errsigCnt := BitVec.ofNat 2 c.errSignalEtu }

theorem rxb_wrong_taken (b : Byte) (f : FramerRegs) (c : BitVec 24) (hp : s.phase = .tpduExchange)
    (hbudget : s.seq.retryCnt.toNat + 1 < s.config.parityRetryBudget) :
    rxb true b { withCount c s with fr := f } =
      (characterTaken (s.seq.retryCnt + 1) (signalLine s.config s.line) f 0 s).emits
        [resetWtWord s.ident, driveIoWord s.ident false] := by
  rw [rxb_of_receives true b (by exact Or.inr (Or.inr hp)), if_pos rfl, rxParityError_eq,
    if_neg (by exact Nat.not_le.2 hbudget), errorSignalled, failureCounted, afterRxRestart]
  simp [State.emits, characterTaken, signalLine, waitRestarted, withCount]

/-- An error signal of either length is over after the two ticks of the guard time (R235). -/
theorem signalLine_released {c : Config} (hc : InRange c) (id : Ident) {l : LineCtl} (hdrv : l.ioDrv = true)
    (he : l.errsigCnt = 0) :
    errsigTick (errsigTick (signalLine c l)) = l ∧
      signalEnd id (signalLine c l) ++ signalEnd id (errsigTick (signalLine c l)) = [driveIoWord id true] := by
  obtain ⟨dir, drv, cnt⟩ := l
  dsimp only at hdrv he
  subst hdrv he
  unfold signalLine
  rcases hc.errSignal with h | h <;> rw [h]
  · simp [signalEnd, errsigTick]
  · simp [signalEnd, errsigTick]

/-- The framer after the twelve ticks of a character. -/
def characterFramer (c : Config) (frame : BitVec 10) (f : FramerRegs) : FramerRegs :=
  { f with
    shift := frame, slot := 0
    holdoff := BitVec.ofNat 8 (max (f.holdoff.toNat - 10) (c.turnaroundEtu - 10) - 2) }

theorem characterFramer_eq {c : Config} (hc : InRange c) (frame : BitVec 10) {f : FramerRegs}
    (hm : f.mode = .idle) :
    toIdle { toSlot11 { receivedFrame c frame f with
        holdoff := holdoffTick (receivedFrame c frame f).holdoff } with
      holdoff := holdoffTick (holdoffTick (receivedFrame c frame f).holdoff) } =
      characterFramer c frame f := by
  have hlt := f.holdoff.isLt
  have hta := hc.turnaround_most
  have hhold : holdoffTick (holdoffTick (receivedFrame c frame f).holdoff) =
      (characterFramer c frame f).holdoff := by
    show holdoffTick (holdoffTick (BitVec.ofNat 8 _)) = _
    rw [holdoffTick_ofNat (by omega), holdoffTick_ofNat (by omega), Nat.sub_sub]
    rfl
  rw [hhold]
  unfold toIdle
  rw [← hm]
  rfl

/-- A character of the exchange, by what its `RXB` does to the retry count and the line. -/
theorem Ticking.runEvents_character (h : Ticking s) (hm : s.fr.mode = .idle) (hd : s.line.dir = 1)
    (hbelow : 2 * (s.wt.cnt.toNat + 12) < s.wt.ticks.toNat) (hc : InRange s.config) {b : Byte}
    {p perr : Bool} (hperr : (p != xorBits b) = perr) {retry : BitVec 4} {l : LineCtl} {ws : List CmdWord}
    (hdir : l.dir = 1) (hline : errsigTick (errsigTick l) = s.line)
    (hrxb : ∀ f c, rxb perr b { withCount c s with fr := f } = (characterTaken retry l f 0 s).emits ws) :
    runEvents (rxCharWith b p) s =
      .next
        ((characterTaken retry s.line (characterFramer s.config (frameWith p b) s.fr) 3 s).emits
          (ws ++ (signalEnd s.ident l ++ signalEnd s.ident (errsigTick l)))) := by
  have hw : noExpiry 9 s := Or.inr (by omega)
  have hframe := h.runEvents_frame hm hd (frameWith_start p b) hw
  rw [charParityErr_frameWith, charByte_frameWith, hperr, performed_rxb _ _ (h.later hw _).inited,
    afterTicks_below_half _ (by omega), hrxb,
    waitTick_counts (by show 2 * (0 + 1) < s.wt.ticks.toNat; omega)] at hframe
  have hguard : InGuardTime 2 (withCount 1
      ((characterTaken retry l (receivedFrame s.config (frameWith p b) s.fr) 0 s).emits ws)) :=
    ⟨h.inited, h.clk, h.phase, rfl, hdir, by show 2 * (1 + 2) < s.wt.ticks.toNat; omega⟩
  rw [rxCharWith_eq, runEvents_append hframe]
  refine (hguard.runEvents rfl).trans (congrArg _ ?_)
  rw [← characterFramer_eq hc _ hm, ← hline, ← emits_emits, ← emits_emits]
  rfl

/-- Settles O46: the ten slots of a frame perform `RXB` of its byte, and the two ticks of its guard time count on;
a good byte leaves the line alone, and a wrong one signals for at most those two ticks. -/
theorem twelveTicksReceiveACharacter : Obligations.TwelveTicksReceiveACharacter := by
  unfold Obligations.TwelveTicksReceiveACharacter
  intro b s hi hc hp hm hline frame hold
  have h : Ticking s := ⟨hi, hc, hp, by rw [hline], by rw [hline]⟩
  have hd : s.line.dir = 1 := by rw [hline]
  refine ⟨fun p hw => ?ten, ?twelve⟩
  case ten =>
    have hrun := h.runEvents_frame hm hd (frameWith_start p b) hw
    rw [charParityErr_frameWith, charByte_frameWith] at hrun
    rw [rxCharWith_eq]
    exact hrun
  case twelve =>
    intro hexchange hconfig hbelow t
    have hrange : InRange s.config := inRange_of_check hconfig
    refine ⟨?good, fun hbudget => ?wrong⟩
    case good =>
      have hsilent : errsigTick (errsigTick s.line) = s.line := by rw [hline]; rfl
      have hends : signalEnd s.ident s.line ++ signalEnd s.ident (errsigTick s.line) = [] := by
        rw [hline]; rfl
      have hrun := h.runEvents_character hm hd hbelow hrange (bne_self_eq_false _) hd hsilent
        fun f c => rxb_good_taken b f c hexchange
      rw [hends] at hrun
      exact hrun
    case wrong =>
      have hwrong : ((!xorBits b) != xorBits b) = true := by cases xorBits b <;> rfl
      obtain ⟨hreleased, hends⟩ := signalLine_released hrange s.ident h.released h.noSignal
      have hrun := h.runEvents_character hm hd hbelow hrange hwrong (by exact hd) hreleased
        fun f c => rxb_wrong_taken b f c hexchange hbudget
      rw [hends] at hrun
      exact hrun

end Sys2Proof.Proofs
end

section
/-! PROOFS. The timer events on a created handle in every state, and the tick of an idle line, which counts the
waiting time (45_timers.md R230 to R232, R236). -/

namespace Sys2Proof.Proofs

open Sys2Proof Sys2Proof.Machine

variable {s : State}

/-! ### The events on an unarmed waiting time (R230, R231) -/

theorem not_wtArmed_of_zero (h : s.wt.ticks = 0) : ¬ wtArmed s = true := by
  unfold wtArmed
  simp [h]

theorem wthalf_unarmed (h : s.wt.ticks = 0) : wthalf s = contractErrSet s :=
  if_neg (not_wtArmed_of_zero h)

theorem wtexp_unarmed (h : s.wt.ticks = 0) :
    wtexp s = if s.phase = .errorHalt then s else contractErrSet s :=
  if_neg (not_wtArmed_of_zero h)

/-! ### The three events (R230 to R232) -/

/-- Settles O31, by whether the waiting time is armed. -/
theorem wthalfReportsWhenArmed : Obligations.WthalfReportsWhenArmed := by
  unfold Obligations.WthalfReportsWhenArmed
  intro s hi
  refine ⟨rfl, (exec_of_inited .wthalf hi).trans (congrArg _ ?_)⟩
  show wthalf s = _
  by_cases hticks : s.wt.ticks = 0
  · rw [if_pos hticks, wthalf_unarmed hticks]
  · rw [if_neg hticks, wthalf_armed s hticks]

/-- Settles O32, by whether the waiting time is armed. -/
theorem wtexpHaltsWhenArmed : Obligations.WtexpHaltsWhenArmed := by
  unfold Obligations.WtexpHaltsWhenArmed
  intro s hi
  refine ⟨rfl, (exec_of_inited .wtexp hi).trans (congrArg _ ?_)⟩
  show wtexp s = _
  by_cases hticks : s.wt.ticks = 0
  · rw [if_neg (not_not_intro hticks), wtexp_unarmed hticks]
  · rw [if_pos hticks, wtexp_armed s hticks]

/-- Settles O33, phase by phase. -/
theorem gviolHaltsTheExchange : Obligations.GviolHaltsTheExchange := by
  unfold Obligations.GviolHaltsTheExchange
  intro s hi
  refine ⟨rfl, (exec_of_inited .gviol hi).trans (congrArg _ ?_)⟩
  show gviol s = _
  rw [gviol_eq]
  cases s.phase <;> rfl

/-! ### The tick of an idle line (R236) -/

/-- With no counter running, steps 1 to 3 of a tick do nothing (R233 to R235). -/
theorem tickStart_of_still (hp : s.phase ≠ .resetAsserted) (he : s.line.errsigCnt = 0)
    (hh : s.fr.holdoff = 0) : tickStart s = s := by
  have hhold : holdoffTick s.fr.holdoff = s.fr.holdoff := (if_pos hh).trans hh.symm
  rw [tickStart_of_no_hold hp he, hhold]

/-- Settles O42: O41 on a line that stays high, so nothing but the waiting time moves. -/
theorem etuCountsTheWaitingTime : Obligations.EtuCountsTheWaitingTime := by
  unfold Obligations.EtuCountsTheWaitingTime
  intro s hi hc hp hm hd _ he hh harmed
  have hhigh : ¬ (true = false ∧ s.line.ioDrv = true) := fun hstart => Bool.noConfusion hstart.1
  have htick : exec (.etu true) s = .next (waitTick s) := by
    rw [etuFindsTheStartBit true s hi hc hm hd]
    dsimp only
    rw [if_neg hhigh, tickStart_of_still hp he hh]
  rw [htick]
  unfold waitTick
  rw [if_neg harmed]

end Sys2Proof.Proofs
end

section
/-! PROOFS. The queue manager's events other than `TXQAPP`, and the STATUS record, whose words are read from bit
0 upwards, one field at a time (46_txqueue_and_status.md R251 to R253, R256). -/

namespace Sys2Proof.Proofs

open Sys2Proof Sys2Proof.Machine

/-! ### A word laid out in fields, read from bit `k` upwards -/

section

variable {w m k n : Nat} {rest : Bool}

/-- The lowest field stands at bits `k` to `last`; what lies above it is read from bit `k + m`. -/
theorem getLsbD_field {last : Nat} {x : BitVec w} {y : BitVec m} (hlast : last + 1 = k + m)
    (hk : k ≤ n) (habove : k + m ≤ n → x.getLsbD (n - (k + m)) = rest) :
    (x ++ y).getLsbD (n - k) = if n ≤ last then y.getLsbD (n - k) else rest := by
  rw [BitVec.getLsbD_append]
  by_cases hn : n ≤ last
  · rw [if_pos hn, if_pos (by omega)]
  · rw [if_neg hn, if_neg (by omega), Nat.sub_sub, habove (by omega)]

/-- A flag is a field of one bit. -/
theorem getLsbD_flag {x : BitVec w} {b : Bool} (hk : k ≤ n)
    (habove : k + 1 ≤ n → x.getLsbD (n - (k + 1)) = rest) :
    (x ++ BitVec.ofBool b).getLsbD (n - k) = if n = k then b else rest := by
  rw [getLsbD_field rfl hk habove]
  by_cases hn : n = k
  · rw [if_pos hn.le, if_pos hn, hn, Nat.sub_self]
    exact extractLsb_eq_ofBool_iff.1 BitVec.extractLsb'_eq_self
  · rw [if_neg (by omega), if_neg hn]

end

/-! ### The words of the STATUS record (R256) -/

/-- The header's constant with the slot laid over its channel field. -/
theorem statusHeader_eq : ∀ slot : BitVec 2,
    cmdWord 10 slot 3 = 0xA0000003 ||| (slot.setWidth 32 <<< 24) := by
  decide

/-- W1, field by field from bit 0. -/
theorem statusW1_getLsbD (s : State) (n : Nat) :
    (statusW1 s).getLsbD n =
      if n = 0 then s.lines.vcc
      else if n = 1 then s.lines.rst
      else if n = 2 then s.lines.clk
      else if n = 3 then s.wt.half
      else if n = 4 then s.wt.full
      else if n = 5 then s.patr.pending
      else if n = 6 then s.err.contractErr
      else if n = 7 then s.atr.done
      else if n ≤ 10 then (phaseCode s.phase).getLsbD (n - 8)
      else if n = 11 then s.seq.txActive
      else if n ≤ 15 then (causeCode s.err.cause).getLsbD (n - 12)
      else if n ≤ 19 then s.seq.retryCnt.getLsbD (n - 16)
      else if n ≤ 23 then s.fd.fi.getLsbD (n - 20)
      else if n ≤ 27 then s.fd.di.getLsbD (n - 24)
      else false := by
  show (statusW1 s).getLsbD (n - 0) = _
  unfold statusW1
  refine getLsbD_flag n.zero_le fun hrst => getLsbD_flag hrst fun hclk => getLsbD_flag hclk
    fun hhalf => getLsbD_flag hhalf fun hfull => getLsbD_flag hfull fun hpending =>
    getLsbD_flag hpending fun hcontract => getLsbD_flag hcontract fun hdone =>
    getLsbD_flag hdone fun hphase => getLsbD_field rfl hphase fun hactive =>
    getLsbD_flag hactive fun hcause => getLsbD_field rfl hcause fun hretry =>
    getLsbD_field rfl hretry fun hfi => getLsbD_field rfl hfi fun hdi =>
    getLsbD_field rfl hdi fun _ => BitVec.getLsbD_zero

/-- F in the low half of W2. -/
theorem statusW2_f (s : State) : (statusW2 s).setWidth 16 = fOf s.config s.fd.fi :=
  BitVec.setWidth_append_eq_right

/-- D above F. -/
theorem statusW2_d (s : State) : (statusW2 s).extractLsb' 16 8 = dOf s.config s.fd.di :=
  (BitVec.extractLsb'_append_eq_of_le (Nat.le_refl 16)).trans (extractLsb_append_low _ _)

/-- The frame count in the top byte, saturated at 255. -/
theorem statusW2_frames (s : State) :
    ((statusW2 s).extractLsb' 24 8).toNat = min s.txq.frames.length 255 := by
  have htop : (statusW2 s).extractLsb' 24 8 = BitVec.ofNat 8 (min s.txq.frames.length 255) :=
    (BitVec.extractLsb'_append_eq_of_le (by decide)).trans (extractLsb_append_high _ _)
  have hfits : min s.txq.frames.length 255 < 2 ^ 8 := by omega
  rw [htop, BitVec.toNat_ofNat, Nat.mod_eq_of_lt hfits]

/-- Settles O38: the header by the slot, each word by its fields. -/
theorem statusRecordHasTheLayout : Obligations.StatusRecordHasTheLayout := by
  unfold Obligations.StatusRecordHasTheLayout
  intro s
  refine ⟨?_, statusW1_getLsbD s, statusW2_f s, statusW2_d s, statusW2_frames s,
    BitVec.setWidth_append_eq_right, extractLsb_append_high _ _⟩
  rw [← statusHeader_eq]
  exact emitStatus_eq s

/-! ### The events of the queue manager and the status reporter (R251 to R253) -/

/-- Settles O35: NEWTX is R139's `kick`. -/
theorem newtxStartsAnIdleTransmitter : Obligations.NewtxStartsAnIdleTransmitter := by
  unfold Obligations.NewtxStartsAnIdleTransmitter
  intro s hi
  exact ⟨rfl, (exec_of_inited .newtx hi).trans (congrArg _ (kick_eq s))⟩

/-- Settles O36: GETTXQ only puts the slot on the return port. -/
theorem gettxqReturnsTheSlot : Obligations.GettxqReturnsTheSlot := by
  unfold Obligations.GettxqReturnsTheSlot
  intro s hi
  exact ⟨rfl, (exec_of_inited .gettxq hi).trans (congrArg _ (ret_eq s _))⟩

/-- Settles O37: REPSTAT is one `emit STATUS`, which has no effect on the engine. -/
theorem repstatEmitsTheRecord : Obligations.RepstatEmitsTheRecord := by
  unfold Obligations.RepstatEmitsTheRecord
  intro s hi
  exact ⟨rfl, (exec_of_inited .repstat hi).trans (congrArg _ (emitStatus_eq s))⟩

end Sys2Proof.Proofs
end

section
/-! PROOFS. `ERROR_HALT` (60_exceptions.md R288, R289, R297). What an event does there is what it does everywhere,
read at a state with power, RST released, the waiting time unarmed and the line quiet. -/

namespace Sys2Proof.Proofs

open Sys2Proof Sys2Proof.Machine

variable {s t : State}

/-! ### The state in the halt (R40 d, e, R131, R288) -/

theorem vcc_of_halted (h : Inv s) (hp : s.phase = .errorHalt) : s.lines.vcc = true :=
  h.documented.powered (Or.inr hp)

theorem exchangePhase_of_halted (hp : s.phase = .errorHalt) : exchangePhase s.phase = false := by
  rw [hp]; rfl

theorem not_receives_of_halted (hp : s.phase = .errorHalt) : ¬ Receives s := by
  unfold Receives
  simp [hp]

/-! ### The events whose effect the halt decides -/

section

variable (h : Inv s) (hi : s.ident.inited = true) (hp : s.phase = .errorHalt)

include h hi hp

/-- The loss of power ends the halt (R112, R288). -/
theorem exec_vccLost_halted :
    exec (.iochgVcc false) s =
      .next (afterPowerOff { s with lines := { s.lines with vcc := false } }) := by
  rw [vccChangeResetsOrPowersOff false s hi, vcc_of_halted h hp]

theorem exec_vccRepeated_halted : exec (.iochgVcc true) s = .next s := by
  rw [vccChangeResetsOrPowersOff true s hi, vcc_of_halted h hp]

/-- An assertion of RST ends the halt: there is power (R113, R288). -/
theorem exec_rstAsserted_halted :
    exec (.iochgRst true) s = .next (afterReset { s with lines := { s.lines with rst := true } }) := by
  rw [rstChangeResetsOrStartsTheAtr true s hi, h.bounded.haltReleased hp]
  dsimp only
  rw [if_pos (vcc_of_halted h hp)]

theorem exec_rstRepeated_halted : exec (.iochgRst false) s = .next s := by
  rw [rstChangeResetsOrStartsTheAtr false s hi, h.bounded.haltReleased hp]

/-- The waiting time is not armed in the halt (R230). -/
theorem exec_wthalf_halted : exec .wthalf s = .next (contractErrSet s) := by
  have hticks : s.wt.ticks = 0 := unarmed_of_no_exchange h (exchangePhase_of_halted hp)
  rw [(wthalfReportsWhenArmed s hi).2]
  dsimp only
  rw [if_pos hticks]

/-- A late expiry is tolerated in the halt (R231). -/
theorem exec_wtexp_halted : exec .wtexp s = .next s := by
  have hticks : s.wt.ticks = 0 := unarmed_of_no_exchange h (exchangePhase_of_halted hp)
  rw [(wtexpHaltsWhenArmed s hi).2, if_neg (not_not_intro hticks), if_pos hp]

/-- A tick does nothing, whether or not the clock runs (R200). -/
theorem exec_etu_halted (rdr : Bool) : exec (.etu rdr) s = .next s := by
  have hreset : ¬ (s.phase = .resetAsserted ∧ s.lines.rst = true) := by simp [hp]
  cases hc : s.lines.clk with
  | false => exact etuWithoutClockDoesNothing rdr s hi hc
  | true =>
    rw [etuOutsideTheExchangeCountsTheHold rdr s h hi hc (exchangePhase_of_halted hp), if_neg hreset]

end

section

variable (hi : s.ident.inited = true) (hp : s.phase = .errorHalt)

include hi hp

/-- A guard violation outside the exchange is the adapter's fault (R232). -/
theorem exec_gviol_halted : exec .gviol s = .next (contractErrSet s) := by
  rw [(gviolHaltsTheExchange s hi).2, hp]

/-- The transmitter is started in `TPDU_EXCHANGE` only (R139, R251). -/
theorem exec_newtx_halted : exec .newtx s = .next s := by
  have hstart : ¬ (s.phase = .tpduExchange ∧ s.txq.frames ≠ [] ∧ s.seq.txActive = false) := by simp [hp]
  rw [(newtxStartsAnIdleTransmitter s hi).2, afterKick, if_neg hstart]

/-- No delivery is in flight, so an accepted ATR is written at once (R162). -/
theorem exec_setatr_halted (bytes : List Byte) :
    exec (.setatr bytes) s =
      .next
        (if s.config.atrMax < bytes.length then s.returns 9
        else if atrValid s.config bytes bytes.length = false then s.returns 10
        else (atrWritten bytes s).returns 0) := by
  have hidle : ¬ (s.phase = .atrDelivery ∧ s.atr.done = false) := by simp [hp]
  rw [setatrRejectsDefersOrWrites bytes s hi, if_neg hidle]

end

/-! ### The ways out of the halt (R130, R288) -/

/-- The rows of R130 that leave the halt are those of the loss of power and of the reset. -/
theorem transitionRow_of_halted (h : Inv s) (hp : s.phase = .errorHalt) {i : Instr} {p : Phase}
    (hrow : transitionRow i s p) : p = .errorHalt ∨ i = .iochgVcc false ∨ i = .iochgRst true := by
  cases p with
  | errorHalt => exact Or.inl rfl
  | poweredOff => exact Or.inr (Or.inl (transitionRow_powerOff.1 hrow).1)
  | resetAsserted =>
    rcases transitionRow_reset.1 hrow with ⟨hrst, -⟩ | ⟨-, hunpowered, -⟩
    · exact Or.inr (Or.inr hrst)
    · rw [vcc_of_halted h hp] at hunpowered
      cases hunpowered
  | atrDelivery | ppsNegotiation | tpduExchange =>
    unfold transitionRow at hrow
    rw [hp] at hrow
    exact hrow.elim

/-- A tick stays in the halt, and every other event moves along a row. -/
theorem leaves_halt_only_by (h : Inv s) (hi : s.ident.inited = true) (hp : s.phase = .errorHalt)
    {i : Instr} (ht : exec i s = .next t) :
    t.phase = .errorHalt ∨ i = .iochgVcc false ∨ i = .iochgRst true := by
  rcases phaseFollowsTheTransitionTable i s t h hi ht with hkept | hrow | ⟨rdr, _, rfl, -⟩
  · exact Or.inl (hkept.trans hp)
  · exact transitionRow_of_halted h hp hrow
  · rw [exec_etu_halted h hi hp] at ht
    injection ht with hsame
    exact Or.inl (hsame ▸ hp)

/-- Settles O55, event by event, and by the transition table for the ways out. -/
theorem haltedEngineAnswersEveryEvent : Obligations.HaltedEngineAnswersEveryEvent := by
  unfold Obligations.HaltedEngineAnswersEveryEvent
  intro s h hi hp
  exact ⟨exec_vccLost_halted h hi hp, exec_vccRepeated_halted h hi hp,
    exec_rstAsserted_halted h hi hp, exec_rstRepeated_halted h hi hp,
    fun a => (clkChangeWritesItsLatch a s hi).2.1,
    fun perr b => byteOutOfPlaceIsAContractError perr b s hi (not_receives_of_halted hp),
    fun nack => (txrdyOutOfPlaceReturnsAStatus nack s hi).1 (Or.inr (Or.inr hp)),
    exec_wthalf_halted h hi hp, exec_wtexp_halted h hi hp, exec_gviol_halted hi hp,
    exec_newtx_halted hi hp, exec_etu_halted h hi hp, exec_setatr_halted hi hp,
    fun bytes => txqappAppendsOrRejects bytes s hi, (gettxqReturnsTheSlot s hi).2,
    (repstatEmitsTheRecord s hi).2, fun _ _ => leaves_halt_only_by h hi hp⟩

end Sys2Proof.Proofs
end
